-- ==== Sys2Proof/Word.lean ====
section
/-! DEFINITION. The words of the block (00_scope.md R10, R11; 30_encoding.md R110): the byte, the
6-bit nibble value, the 7-bit DCD value, the 16-bit CRC register and the 10-bit input word. Bit 0 is
the least significant bit, and no value of the block is signed (R11). -/

namespace Sys2Proof

/-- A byte, 8 bits (R10). -/
abbrev Byte := BitVec 8

/-- A nibble value, 6 bits (R10): what the nibble table gives for a valid symbol. -/
abbrev Nibble := BitVec 6

/-- A DCD group count, or the low 7 bits of a DCD body byte (R10, R39). -/
abbrev Bits7 := BitVec 7

/-- The CRC register, 16 bits (R10, R38). -/
abbrev Crc := BitVec 16

/-- One input word of the input port, 10 bits: `w[9:8]` the kind, `w[7:0]` the data (R110). -/
abbrev InputWord := BitVec 10

end Sys2Proof
end

