-- ==== Sys2Proof/Machine/Bits.lean ====
section
/-! DEFINITION. Bit fields and byte strings (00_scope.md R11, R12; 30_encoding.md R135). -/

namespace Sys2Proof.Machine

/-- `f v`, written by cases on `v`'s number, so that an evaluation has `v` as a numeral before `f`
copies it. `withValue_eq` says that it is `f v`. -/
def withValue {w : Nat} {α : Type} (v : BitVec w) (f : BitVec w → α) : α :=
  match v.toNat with
  | 0 => f 0#w
  | n + 1 => f (BitVec.ofNat w (n + 1))

/-- `rol8(x) = ((x << 1) | (x >> 7)) & 0xFF` (R11). -/
def rol8 (x : Byte) : Byte := (x <<< 1) ||| (x >>> 7)

/-- `b[6:0]` (R135). -/
def low7 (b : Byte) : Bits7 := b.extractLsb' 0 7

/-- `b[7]`, as a bit: the GCR direction tag (R182). -/
def bit7 (b : Byte) : BitVec 1 := b.extractLsb' 7 1

/-- `(hi << 7) | lo`: a payload byte from its carrier bit and its body bits (R220). -/
def joinBit7 (hi : Bool) (lo : Bits7) : Byte := BitVec.ofBool hi ++ lo

/-- `{hi, lo}`, high byte first (R82, R329). -/
def word16 (hi lo : Byte) : BitVec 16 := hi ++ lo

/-- `r[i .. i+n-1]` (R12). -/
def slice (r : List Byte) (i n : Nat) : List Byte := (r.drop i).take n

/-- `r[i]` (R12). Every use stands behind a check that `r` is longer than `i`. -/
def byteAt (r : List Byte) (i : Nat) : Byte := r.getD i 0

/-- `v[i]` of a list of nibble values. Every use stands behind a check of its length. -/
def nibbleAt (v : List Nibble) (i : Nat) : Nibble := v.getD i 0

/-- An 8-bit addition modulo 256 of a whole list (R225). -/
def byteSum : List Byte → Byte
  | [] => 0
  | b :: bs => b + byteSum bs

end Sys2Proof.Machine
end

