-- ==== Sys2Proof/Config.lean ====
section
/-! DEFINITION. The implementation parameters of 00_scope.md R9 as plain data. The values the spec
names as defaults stand in Sys2Proof/Machine/Defaults.lean. IDLE_TIMEOUT is the host's own parameter
and never reaches the block (R359), so it has no field. DESIGN CHOICE, safe: log entry 2 (the
configuration travels in State as a field that nothing writes). -/

namespace Sys2Proof

/-- `GCR_ADD` (R9, R281, R284): how the rotating checksum adds a byte into an accumulator. -/
inductive GcrAdd where
  | mod256
  | chained
deriving DecidableEq, Repr

/-- `P2H_ORDER` (R9, R220): which carrier bit fills which slot in the peer-to-host direction. -/
inductive P2hOrder where
  | lsbFirst
  | msbFirst
deriving DecidableEq, Repr

/-- One bit of the address-mark nibbles that `GCR_TRACK_SIDE` may take: bit `i` of n0 or of n2. -/
inductive NibbleBit where
  | n0 (i : Fin 6)
  | n2 (i : Fin 6)
deriving DecidableEq, Repr

/-- `GCR_TRACK_SIDE` (R9, R270) as a bit layout: the source bit of each of the 7 track bits, track
bit 0 first, and of the side bit. DESIGN CHOICE, safe: log entry 3 (layouts that copy bits). -/
structure TrackSideLayout where
  track : List NibbleBit
  side  : NibbleBit
deriving DecidableEq, Repr

/-- The configuration (R9). It is fixed for the block instance (R382). -/
structure Config where
  /-- `NIB_TABLE`: 128 entries, each a nibble value or INVALID (`none`), R261. -/
  nibTable  : List (Option Nibble)
  gcrAdd    : GcrAdd
  trackSide : TrackSideLayout
  p2hOrder  : P2hOrder
  /-- `TXN_BITS`: the width of the transaction counter. -/
  txnBits   : Nat
  /-- `OFF_BITS`: the width of the offset counter. -/
  offBits   : Nat
  /-- `WIN_CAP`: the window capacity in entries. -/
  winCap    : Nat
deriving DecidableEq, Repr

/-- A configuration the spec admits: a 128-entry table (R261), 7 track bits (R270), and a window
that holds the largest record (93_implementation_defined.md: not less than 709). -/
def Config.wf (c : Config) : Bool :=
  decide (c.nibTable.length = 128) && decide (c.trackSide.track.length = 7) && decide (709 ≤ c.winCap)

end Sys2Proof
end

