-- ==== Sys2Proof/Machine/Defaults.lean ====
section
/-! DEFINITION. The default parameters of 00_scope.md R9: the nibble table of 43_gcr.md R262, the
track and side layout of R270, `Mod256`, `LsbFirst`, 32-bit counters and a window of 709 entries. The
spec marks the table and the layout as general knowledge; they are parameters, and State carries
whichever values it is given (log entries 2 and 3). -/

namespace Sys2Proof.Machine

/-- `NIB_TABLE` for the low 7 bits 0x00 to 0x0F (R262); `none` is INVALID. -/
def nibRow0 : List (Option Nibble) :=
  [none, none, none, none, none, none, none, none, none, none, none, none, none, none, none, none]

/-- `NIB_TABLE` for the low 7 bits 0x10 to 0x1F (R262); `none` is INVALID. -/
def nibRow1 : List (Option Nibble) :=
  [none, none, none, none, none, none, some 0x00, some 0x01, none, none, some 0x02, some 0x03, none, some 0x04, some 0x05, some 0x06]

/-- `NIB_TABLE` for the low 7 bits 0x20 to 0x2F (R262); `none` is INVALID. -/
def nibRow2 : List (Option Nibble) :=
  [none, none, none, none, none, none, some 0x07, some 0x08, none, none, none, some 0x09, some 0x0A, some 0x0B, some 0x0C, some 0x0D]

/-- `NIB_TABLE` for the low 7 bits 0x30 to 0x3F (R262); `none` is INVALID. -/
def nibRow3 : List (Option Nibble) :=
  [none, none, some 0x0E, some 0x0F, some 0x10, some 0x11, some 0x12, some 0x13, none, some 0x14, some 0x15, some 0x16, some 0x17, some 0x18, some 0x19, some 0x1A]

/-- `NIB_TABLE` for the low 7 bits 0x40 to 0x4F (R262); `none` is INVALID. -/
def nibRow4 : List (Option Nibble) :=
  [none, none, none, none, none, none, none, none, none, none, none, some 0x1B, none, some 0x1C, some 0x1D, some 0x1E]

/-- `NIB_TABLE` for the low 7 bits 0x50 to 0x5F (R262); `none` is INVALID. -/
def nibRow5 : List (Option Nibble) :=
  [none, none, none, some 0x1F, none, none, some 0x20, some 0x21, none, some 0x22, some 0x23, some 0x24, some 0x25, some 0x26, some 0x27, some 0x28]

/-- `NIB_TABLE` for the low 7 bits 0x60 to 0x6F (R262); `none` is INVALID. -/
def nibRow6 : List (Option Nibble) :=
  [none, none, none, none, none, some 0x29, some 0x2A, some 0x2B, none, some 0x2C, some 0x2D, some 0x2E, some 0x2F, some 0x30, some 0x31, some 0x32]

/-- `NIB_TABLE` for the low 7 bits 0x70 to 0x7F (R262); `none` is INVALID. -/
def nibRow7 : List (Option Nibble) :=
  [none, none, some 0x33, some 0x34, some 0x35, some 0x36, some 0x37, some 0x38, none, some 0x39, some 0x3A, some 0x3B, some 0x3C, some 0x3D, some 0x3E, some 0x3F]

/-- The default `NIB_TABLE` (R262), indexed by the low 7 bits of the symbol. -/
def defaultNibTable : List (Option Nibble) :=
  nibRow0 ++ nibRow1 ++ nibRow2 ++ nibRow3 ++ nibRow4 ++ nibRow5 ++ nibRow6 ++ nibRow7

/-- The symbol byte `E(v)` of each value `v`, in order of `v` (R262). -/
def defaultSymbols : List Byte :=
  [0x96, 0x97, 0x9A, 0x9B, 0x9D, 0x9E, 0x9F, 0xA6] ++
  [0xA7, 0xAB, 0xAC, 0xAD, 0xAE, 0xAF, 0xB2, 0xB3] ++
  [0xB4, 0xB5, 0xB6, 0xB7, 0xB9, 0xBA, 0xBB, 0xBC] ++
  [0xBD, 0xBE, 0xBF, 0xCB, 0xCD, 0xCE, 0xCF, 0xD3] ++
  [0xD6, 0xD7, 0xD9, 0xDA, 0xDB, 0xDC, 0xDD, 0xDE] ++
  [0xDF, 0xE5, 0xE6, 0xE7, 0xE9, 0xEA, 0xEB, 0xEC] ++
  [0xED, 0xEE, 0xEF, 0xF2, 0xF3, 0xF4, 0xF5, 0xF6] ++
  [0xF7, 0xF9, 0xFA, 0xFB, 0xFC, 0xFD, 0xFE, 0xFF]

/-- The default `GCR_TRACK_SIDE` (R270): track is `n2[0]` over `n0[5:0]`, side is `n2[5]`, and
`n2[4:1]` is ignored. -/
def defaultTrackSide : TrackSideLayout where
  track := [.n0 0, .n0 1, .n0 2, .n0 3, .n0 4, .n0 5, .n2 0]
  side := .n2 5

/-- The default configuration (R9). -/
def defaultConfig : Config where
  nibTable := defaultNibTable
  gcrAdd := .mod256
  trackSide := defaultTrackSide
  p2hOrder := .lsbFirst
  txnBits := 32
  offBits := 32
  winCap := 709

end Sys2Proof.Machine
end

