-- ==== Sys2Proof/Syntax.lean ====
section
/-! DEFINITION. The instructions of spec/opcode_table.json, one constructor per row: the four input
words (30_encoding.md R110 to R114) and the seven record and frame signatures (R120 to R125, R130,
R133). A record instruction carries the bytes of its record that follow its signature. -/

namespace Sys2Proof

/-- The decoding mode that RESET latches (R31, R113). -/
inductive Mode where
  | dcd
  | gcr
  | mfm
deriving DecidableEq, Repr

/-- The block's instructions: one constructor per row of the opcode table. -/
inductive Instr where
  /-- IDLE: the byte-source read timed out with no byte (R111, R154). -/
  | idle
  /-- BYTE: the byte-source read returned byte `b` (R112, R155). -/
  | byte (b : Byte)
  /-- RESET: start a capture session in mode `m` (R113, R151). -/
  | reset (m : Mode)
  /-- STOP: the external interrupt (R114, R153). -/
  | stop
  /-- GCR_ADDRESS_MARK: `D5 AA 96`, then the symbols of n0..n4 and two bit-slip bytes (R122, R266).
  `body` is the bytes after the signature: 7 for a complete record, fewer for a truncated one. -/
  | gcrAddressMark (body : List Byte)
  /-- GCR_DATA_MARK: `D5 AA AD`, then the sector symbol, 699 payload symbols, 4 target symbols and
  two bit-slip bytes (R123, R275). `body` has 706 bytes, fewer for a truncated record. -/
  | gcrDataMark (body : List Byte)
  /-- MFM_INDEX_MARK: `C2 C2 C2 FC`, with no fields (R124, R324). -/
  | mfmIndexMark
  /-- MFM_ADDRESS_MARK: `A1 A1 A1 FE`, then track, side, sector, size code and the CRC, high byte
  first (R124, R325). `body` has 6 bytes, fewer for a truncated record. -/
  | mfmAddressMark (body : List Byte)
  /-- MFM_DATA_MARK: `A1 A1 A1 FB`, then 512 payload bytes and the CRC, high byte first (R125, R328).
  `body` has 514 bytes, fewer for a truncated record. -/
  | mfmDataMark (body : List Byte)
  /-- DCD_FRAME: the sync byte `AA` seen by a decoder with no seed, then out_groups, in_groups and
  the groups, with the resuming sync bytes (R130, R131, R132, R215). `body` is the bytes after the
  sync byte, or the part of them that has arrived. -/
  | dcdFrame (body : List Byte)
  /-- DCD_REPLY: the sync byte `AA` seen by a decoder whose seed is `seed`, then `seed` groups with
  no header bytes (R133, R216). `body` is as for DCD_FRAME. -/
  | dcdReply (seed : Bits7) (body : List Byte)
deriving DecidableEq, Repr

end Sys2Proof
end

