-- ==== Sys2Proof/Machine/State.lean ====
section
/-! DEFINITION. The block's state (10_state.md R30 to R44), its output entries (30_encoding.md R140,
60_exceptions.md R350), and the state at power-on (R47, R380). The block has no addressable memory
(20_memory.md R80). -/

namespace Sys2Proof.Machine

/-- The run states (R31). -/
inductive Run where
  | unconfigured
  | running
  | stopped
deriving DecidableEq, Repr

/-- The sequencer's position, which plays the part of a program counter (R32). -/
inductive Site where
  | search
  | gcrAddr
  | gcrData
  | mfmAddr
  | mfmData
  | dcd
deriving DecidableEq, Repr

/-- The provenance of a byte: transaction id, direction bit if any, and offset (R14). -/
structure Prov where
  txn : Nat
  dir : Option (BitVec 1)
  off : Nat
deriving DecidableEq, Repr

/-- The framer (R33). `nextTxn` and `txn` are below `2 ^ TXN_BITS` and `off` below `2 ^ OFF_BITS`:
they wrap (R185). DESIGN CHOICE, safe: log entry 14. -/
structure Framer where
  nextTxn : Nat
  txn     : Nat
  inTxn   : Bool
  lastDir : BitVec 1
  off     : Nat
deriving DecidableEq, Repr

/-- One window entry: a byte with its provenance (R34). -/
structure Entry where
  byte : Byte
  prov : Prov
deriving DecidableEq, Repr

/-- The lookahead window, oldest entry first, and its end-of-stream flag (R34). -/
structure Window where
  buf : List Entry
  eos : Bool
deriving DecidableEq, Repr

/-- The GCR geometry (R35). -/
structure GcrGeom where
  track  : Bits7
  sector : Nibble
  side   : BitVec 1
  format : Nibble
deriving DecidableEq, Repr

/-- The MFM geometry (R36). -/
structure MfmGeom where
  track    : Byte
  side     : Byte
  sector   : Byte
  sizeCode : Byte
deriving DecidableEq, Repr

/-- The two directions of the DCD link (R210). -/
inductive LinkDir where
  | h2p
  | p2h
deriving DecidableEq, Repr

/-- A DCD decoder's phase (R39, R40). -/
inductive Phase where
  | seekingSync
  | readingHeader0
  | readingHeader1
  | readingPayload
  | awaitingCarrier
  | holdoff
  | gaveUp
deriving DecidableEq, Repr

/-- A DCD decoder (R39). -/
structure DcdDecoder where
  phase     : Phase
  fresh     : Bool
  seed      : Option Bits7
  outGroups : Bits7
  inGroups  : Option Bits7
  payload   : List Byte
  body      : List Bits7
  syncProv  : Option Prov
deriving DecidableEq, Repr

/-- The kinds of a record or mark (R140, R350). -/
inductive Kind where
  | gcrAddr
  | gcrData
  | mfmAddr
  | mfmData
  | dcdH2P
  | dcdP2H
deriving DecidableEq, Repr

/-- The geometry of a record or of its RecordAccepted event: none, or a geometry register (R140). -/
inductive Geom where
  | none
  | gcr (g : GcrGeom)
  | mfm (g : MfmGeom)
deriving DecidableEq, Repr

/-- The direction of a record: none (MFM), the GCR direction bit, or a link direction (R140). -/
inductive RecordDir where
  | none
  | bit (d : BitVec 1)
  | link (d : LinkDir)
deriving DecidableEq, Repr

/-- The two values of a ChecksumMismatch: 6-bit for an address mark, a triple (A, B, C) for a data
mark (R350). -/
inductive Checksum where
  | nibble (v : Nibble)
  | triple (a b c : Byte)
deriving DecidableEq, Repr

/-- How a DCD decoder reports a synchronization (R350). -/
inductive SyncHow where
  | fresh
  | acquired
  | resumed
deriving DecidableEq, Repr

/-- Why a DCD decoder gave up (R350). -/
inductive GaveUpReason where
  | holdoffNoSync
deriving DecidableEq, Repr

/-- The events of the event port (R350). A provenance is `none` only where the PEEK result or the
decoder that gives it has none (R190, R39): an empty window at a record site, or a frame that no sync
byte began. No run reaches such a state. DEDUCED, safe: log entry 5. -/
inductive Event where
  | skip (prov : Option Prov) (byte : Byte)
  | truncated (prov : Option Prov) (kind : Kind) (got : Nat)
  | invalidSymbol (prov : Option Prov) (kind : Kind) (bytes : List Byte)
  | denibError (prov : Option Prov) (pending : Nibble) (j : Nat)
  | checksumMismatch (prov : Option Prov) (kind : Kind) (computed target : Checksum)
  | sectorMismatch (prov : Option Prov) (sec : Nibble) (expected : Option Nibble)
  | crcMismatch (prov : Option Prov) (kind : Kind) (computed stored : BitVec 16)
  | gcrAddressMark (prov : Option Prov) (track : Bits7) (sector : Nibble) (side : BitVec 1)
      (format : Nibble)
  | mfmIndexMark (prov : Option Prov)
  | mfmAddressMark (prov : Option Prov) (track side sector : Byte) (size : BitVec 16)
  | recordAccepted (prov : Option Prov) (kind : Kind) (length : Nat) (geom : Geom)
  | dcdSync (dir : LinkDir) (how : SyncHow) (prov : Option Prov)
  | dcdGaveUp (dir : LinkDir) (reason : GaveUpReason) (prov : Option Prov)
  | dcdFrameInvalid (dir : LinkDir) (sum : Byte) (first : Option Byte) (prov : Option Prov)
  | desync (prov : Option Prov)
deriving DecidableEq, Repr

/-- An entry of the capture port (R42). -/
structure CaptureEntry where
  txn  : Nat
  dir  : Option (BitVec 1)
  byte : Byte
deriving DecidableEq, Repr

/-- A record of the record port (R140). `seq` and `off` are the transaction id and the offset of the
record's provenance. -/
structure Record where
  kind    : Kind
  seq     : Option Nat
  dir     : RecordDir
  off     : Option Nat
  geom    : Geom
  payload : List Byte
deriving DecidableEq, Repr

/-- One entry of the tagged output trace, of which the three ports are the projections (R88). -/
inductive Output where
  | capture (e : CaptureEntry)
  | event (e : Event)
  | record (r : Record)
deriving DecidableEq, Repr

/-- Why an input word is refused (R16). -/
inductive RefuseReason where
  | unconfigured
  | reservedMode
  | reservedBits
  | afterStop
deriving DecidableEq, Repr

/-- The block's state (R30), with the configuration that parameterises a step (R9) and the words that
the host has answered and the block has not read yet (R6, R110).
DESIGN CHOICE, safe: log entries 1 (`input`), 2 (`cfg`) and 4 (`trace`). -/
structure State where
  /-- The configuration (R9, R30). No operation writes it (R84, R382). -/
  cfg     : Config
  /-- The run state (R31). -/
  run     : Run
  /-- The mode latched at RESET (R31). -/
  mode    : Mode
  /-- The sequencer's site (R32). -/
  site    : Site
  /-- The framer (R33). -/
  fr      : Framer
  /-- The window (R34). -/
  win     : Window
  /-- The GCR geometry register (R35). -/
  ggeom   : Option GcrGeom
  /-- The MFM geometry register (R36). -/
  mgeom   : Option MfmGeom
  /-- The host-to-peer decoder (R39). -/
  h2p     : DcdDecoder
  /-- The peer-to-host decoder (R39). -/
  p2h     : DcdDecoder
  /-- The output trace, oldest first; `capture`, `events` and `records` are its projections (R42, R88). -/
  trace   : List Output
  /-- The first refusal's reason (R44). -/
  refused : Option RefuseReason
  /-- The host's input words not read yet, the next one first (R6, R110). -/
  input   : List InputWord
deriving DecidableEq, Repr

/-- The block has no fault outcome, because every byte value is legal input (R16, R360): the type has
no constructor, so no step ends in a fault. -/
inductive Fault
deriving DecidableEq, Repr

/-- Why a step has no meaning. A word that the spec refuses is not one of these: its refusal is a next
state, with `refused` set (R44, R150; log entry 6). -/
inductive Refusal where
  /-- Raised by an arm of `exec` whose instruction has no meaning yet. No arm raises it. Safe. -/
  | notModelled (mnemonic : String)
deriving DecidableEq, Repr

/-- A DCD decoder after a reset without a seed (R39, R214). -/
def DcdDecoder.unseeded : DcdDecoder where
  phase := .seekingSync
  fresh := true
  seed := none
  outGroups := 0
  inGroups := none
  payload := []
  body := []
  syncProv := none

/-- The block at power-on (R47, R380): unconfigured, nothing refused, the ports empty, and nothing to
read. The spec gives no value to the other fields there, and no rule reads them before RESET writes
them. DESIGN CHOICE, unsafe: log entry 7 (the values that RESET with `mm = 00` gives). -/
def State.reset : State where
  cfg := defaultConfig
  run := .unconfigured
  mode := .dcd
  site := .dcd
  fr := ⟨0, 0, false, 0, 0⟩
  win := ⟨[], false⟩
  ggeom := none
  mgeom := none
  h2p := DcdDecoder.unseeded
  p2h := DcdDecoder.unseeded
  trace := []
  refused := none
  input := []

end Sys2Proof.Machine
end

