-- ==== Sys2Proof/Machine/Ops.lean ====
section
/-! DEFINITION. The shared operations: the output ports (R42, R350, R351), the window (R190 to R194),
refusing a word (R150), and failure handling, which is this block's analogue of taking an exception
(R362) and of returning from one (R363). -/

namespace Sys2Proof.Machine

/-- `n + 1` modulo `2 ^ bits` (R185). -/
def wrapInc (bits n : Nat) : Nat := (n + 1) % 2 ^ bits

/-! ## The output ports -/

/-- The numeric code of an event (R350). -/
def Event.code : Event → Byte
  | .skip .. => 0x01
  | .truncated .. => 0x02
  | .invalidSymbol .. => 0x03
  | .denibError .. => 0x04
  | .checksumMismatch .. => 0x05
  | .sectorMismatch .. => 0x06
  | .crcMismatch .. => 0x07
  | .gcrAddressMark .. => 0x08
  | .mfmIndexMark .. => 0x09
  | .mfmAddressMark .. => 0x0A
  | .recordAccepted .. => 0x0B
  | .dcdSync .. => 0x0C
  | .dcdGaveUp .. => 0x0D
  | .dcdFrameInvalid .. => 0x0E
  | .desync .. => 0x0F

/-- The numeric code of a kind (R350). -/
def Kind.code : Kind → Nat
  | .gcrAddr => 0
  | .gcrData => 1
  | .mfmAddr => 2
  | .mfmData => 3
  | .dcdH2P => 4
  | .dcdP2H => 5

/-- The numeric code of a link direction (R350). -/
def LinkDir.code : LinkDir → Nat
  | .h2p => 0
  | .p2h => 1

/-- The numeric code of `how` in a DcdSync event (R350). -/
def SyncHow.code : SyncHow → Nat
  | .fresh => 0
  | .acquired => 1
  | .resumed => 2

/-- The numeric code of a give-up reason (R350). -/
def GaveUpReason.code : GaveUpReason → Nat
  | .holdoffNoSync => 0

/-- The capture entry of an output, if it is one. -/
def Output.capture? : Output → Option CaptureEntry
  | .capture e => some e
  | _ => none

/-- The event of an output, if it is one. -/
def Output.event? : Output → Option Event
  | .event e => some e
  | _ => none

/-- The record of an output, if it is one. -/
def Output.record? : Output → Option Record
  | .record r => some r
  | _ => none

/-- `s.capture`, the projection of the trace to the capture port (R42, R88). -/
def State.capture (s : State) : List CaptureEntry := s.trace.filterMap Output.capture?

/-- `s.events`, the projection of the trace to the event port (R42, R88). -/
def State.events (s : State) : List Event := s.trace.filterMap Output.event?

/-- `s.records`, the projection of the trace to the record port (R42, R88). -/
def State.records (s : State) : List Record := s.trace.filterMap Output.record?

/-- Append one output; nothing else changes (R42). -/
def emit (o : Output) (s : State) : State := { s with trace := s.trace ++ [o] }

/-- `EMIT_EVENT` (R13, R350). -/
def emitEvent (e : Event) (s : State) : State := emit (.event e) s

/-- `EMIT_EVENT` of each event of a list, in order. -/
def emitEvents (es : List Event) (s : State) : State := { s with trace := s.trace ++ es.map .event }

/-- `EMIT_CAPTURE(txn, dir, b)` (R13, R180). -/
def emitCapture (p : Prov) (b : Byte) (s : State) : State := emit (.capture ⟨p.txn, p.dir, b⟩) s

/-- The direction of a record: the link direction for DCD, the provenance's bit otherwise (R351). -/
def recordDir (kind : Kind) (prov : Option Prov) : RecordDir :=
  match kind with
  | .dcdH2P => .link .h2p
  | .dcdP2H => .link .p2h
  | .gcrAddr | .gcrData | .mfmAddr | .mfmData =>
    match prov.bind Prov.dir with
    | some d => .bit d
    | none => .none

/-- The record that `EMIT_RECORD` appends (R140, R351). -/
def mkRecord (kind : Kind) (prov : Option Prov) (geom : Geom) (payload : List Byte) : Record where
  kind := kind
  seq := prov.map Prov.txn
  dir := recordDir kind prov
  off := prov.map Prov.off
  geom := geom
  payload := payload

/-- `EMIT_RECORD(kind, prov, geom, payload)`: the record, then its RecordAccepted event (R351). -/
def emitRecord (kind : Kind) (prov : Option Prov) (geom : Geom) (payload : List Byte) (s : State) :
    State :=
  emitEvent (.recordAccepted prov kind payload.length geom)
    (emit (.record (mkRecord kind prov geom payload)) s)

/-! ## Refusal -/

/-- `REFUSE(reason)`: `refused` takes the reason if it holds none, and nothing else changes (R44, R150). -/
def refuse (r : RefuseReason) (s : State) : State :=
  { s with refused := match s.refused with
      | some r0 => some r0
      | none => some r }

/-! ## The window -/

/-- `PEEK_RESULT(s, n)`: the oldest entry's provenance and up to `n` bytes (R190). -/
def peekResult (s : State) (n : Nat) : Option Prov × List Byte :=
  (s.win.buf.head?.map Entry.prov, (s.win.buf.take n).map Entry.byte)

/-- `POP(s, n)`: drop up to `n` oldest entries; an empty window clears `eos` (R193, R194). -/
def pop (n : Nat) (s : State) : State :=
  { s with win :=
      { buf := s.win.buf.drop n
        eos := if s.win.buf.drop n = [] then false else s.win.eos } }

/-- `SKIP(s)`: the one-byte drop of a search miss, with its Skip event unless the window is empty
(R161). -/
def skip (s : State) : State :=
  match s.win.buf with
  | [] => pop 1 s
  | e :: _ => pop 1 (emitEvent (.skip (some e.prov) e.byte) s)

/-! ## Failure handling -/

/-- Failure handling of a candidate, the block's analogue of trap entry (R362): one failure event and
a POP of one byte. Nothing is saved, and nothing else changes. -/
def failCandidate (e : Event) (s : State) : State := pop 1 (emitEvent e s)

/-- The sequencer's return to `Search` after a record site (R162). Failure handling needs no other
return (R363). -/
def toSearch (s : State) : State := { s with site := .search }

end Sys2Proof.Machine
end

