-- ==== Sys2Proof/Machine/Framer.lean ====
section
/-! DEFINITION. The transaction framer (41_framer_window.md R180 to R185). -/

namespace Sys2Proof.Machine

/-- A new transaction: it takes the next id, and its offsets start at 0 (R181, R182). -/
def openTxn (cfg : Config) (fr : Framer) : Framer :=
  { fr with txn := fr.nextTxn, nextTxn := wrapInc cfg.txnBits fr.nextTxn, inTxn := true, off := 0 }

/-- The offset that the next byte will take (R33, R185). -/
def advanceOff (cfg : Config) (fr : Framer) : Framer := { fr with off := wrapInc cfg.offBits fr.off }

/-- `TAG_DCD` (R181). -/
def tagDcd (cfg : Config) (fr : Framer) : Prov × Framer :=
  let fr1 := if fr.inTxn then fr else openTxn cfg fr
  (⟨fr1.txn, none, fr1.off⟩, advanceOff cfg fr1)

/-- `TAG_GCR` (R182). -/
def tagGcr (cfg : Config) (fr : Framer) (b : Byte) : Prov × Framer :=
  let d := bit7 b
  let fr1 := if fr.inTxn ∧ d = fr.lastDir then fr else { openTxn cfg fr with lastDir := d }
  (⟨fr1.txn, some d, fr1.off⟩, advanceOff cfg fr1)

/-- `TAG_MFM` (R183). -/
def tagMfm (cfg : Config) (fr : Framer) : Prov × Framer :=
  (⟨0, none, fr.off⟩, advanceOff cfg fr)

/-- The tag of a byte in the latched mode (R180). -/
def tagByte (cfg : Config) (m : Mode) (fr : Framer) (b : Byte) : Prov × Framer :=
  match m with
  | .dcd => tagDcd cfg fr
  | .gcr => tagGcr cfg fr b
  | .mfm => tagMfm cfg fr

/-- `FRAMER_TAG(s, b)` and the append of the tagged byte to the window: the framer advances, and the
capture entry is emitted before any interpretation (R155, R180, R190). -/
def readByte (b : Byte) (s : State) : State :=
  let t := tagByte s.cfg s.mode s.fr b
  let s1 := emitCapture t.1 b { s with fr := t.2 }
  { s1 with win := { s1.win with buf := s1.win.buf ++ [⟨b, t.1⟩] } }

/-- `FRAMER_IDLE(s)`: an IDLE ends a DCD transaction, and has no effect in the other modes (R184). -/
def framerIdle (s : State) : State :=
  match s.mode with
  | .dcd => { s with fr := { s.fr with inTxn := false } }
  | .gcr => s
  | .mfm => s

end Sys2Proof.Machine
end

