-- ==== Sys2Proof/Machine/Wire.lean ====
section
/-! DEFINITION. The record signatures and lengths (30_encoding.md R120 to R125), the DCD sync byte
and the length of a DCD frame on the wire (R130 to R133). -/

namespace Sys2Proof.Machine

/-- `D5 AA 96` (R120, R122). -/
def sigGcrAddr : List Byte := [0xD5, 0xAA, 0x96]

/-- `D5 AA AD` (R120, R123). -/
def sigGcrData : List Byte := [0xD5, 0xAA, 0xAD]

/-- `C2 C2 C2 FC` (R120, R124). -/
def sigMfmIndex : List Byte := [0xC2, 0xC2, 0xC2, 0xFC]

/-- `A1 A1 A1 FE` (R120, R124). -/
def sigMfmAddr : List Byte := [0xA1, 0xA1, 0xA1, 0xFE]

/-- `A1 A1 A1 FB` (R120, R125). -/
def sigMfmData : List Byte := [0xA1, 0xA1, 0xA1, 0xFB]

/-- The DCD sync byte `AA` (R130, R215). -/
def syncByte : Byte := 0xAA

/-- The length of a GCR address mark (R120). -/
def lenGcrAddr : Nat := 10

/-- The length of a GCR data mark (R120). -/
def lenGcrData : Nat := 709

/-- The length of an MFM address mark (R120). -/
def lenMfmAddr : Nat := 10

/-- The length of an MFM data mark (R120). -/
def lenMfmData : Nat := 518

/-- How many bytes of `bs` belong to `n` DCD groups: 8 bytes a group, and after a group that is not
the last one and whose carrier has bit 7 clear, the resuming sync byte `AA` (R131, R132). Where
`bs` ends first, or the resuming sync byte is another byte, the count stops there. -/
def groupsLen : Nat → List Byte → Nat
  | 0, _ => 0
  | n + 1, bs =>
    if bs.length < 8 then bs.length
    else if n = 0 then 8
    else if (byteAt bs 7).msb then 8 + groupsLen n (bs.drop 8)
    else match bs.drop 8 with
      | [] => 8
      | b :: rest => if b = syncByte then 9 + groupsLen n rest else 8

/-- How many bytes of `bs`, the bytes after the sync byte, belong to a frame of the unseeded form:
out_groups, in_groups and `out_groups[6:0]` groups (R130). -/
def frameBodyLen : List Byte → Nat
  | [] => 0
  | [_] => 1
  | outG :: _ :: rest => 2 + groupsLen (low7 outG).toNat rest

/-- How many bytes of `bs` belong to a frame of the seeded form (R133). -/
def replyBodyLen (seed : Bits7) (bs : List Byte) : Nat := groupsLen seed.toNat bs

/-- `bs` is all the bytes of `n` DCD groups and no more (R131, R132). -/
def groupsDone : Nat → List Byte → Bool
  | 0, bs => bs.isEmpty
  | n + 1, bs =>
    if bs.length < 8 then false
    else if n = 0 then decide (bs.length = 8)
    else if (byteAt bs 7).msb then groupsDone n (bs.drop 8)
    else match bs.drop 8 with
      | [] => false
      | b :: rest => decide (b = syncByte) && groupsDone n rest

/-- `bs` is all the bytes that follow the sync byte in a frame of the unseeded form (R130). -/
def frameDone : List Byte → Bool
  | outG :: _ :: rest => groupsDone (low7 outG).toNat rest
  | _ => false

end Sys2Proof.Machine
end

