-- ==== Sys2Proof/WellFormed.lean ====
section
/-! DEFINITION. Well-formed instructions: a record carries no more bytes than its length leaves after
its signature (30_encoding.md R120, R122 to R125), and a DCD frame carries the bytes of one frame or
the first part of them (R130 to R133). A record with fewer bytes than its length is the truncated
form that R267 and R330 give a meaning. -/

namespace Sys2Proof

/-- The instruction is one that the encodings of 30_encoding.md can spell. -/
def Instr.wf : Instr → Bool
  | .idle => true
  | .byte _ => true
  | .reset _ => true
  | .stop => true
  | .gcrAddressMark body => decide (body.length ≤ 7)
  | .gcrDataMark body => decide (body.length ≤ 706)
  | .mfmIndexMark => true
  | .mfmAddressMark body => decide (body.length ≤ 6)
  | .mfmDataMark body => decide (body.length ≤ 514)
  | .dcdFrame body => decide (Machine.frameBodyLen body = body.length)
  | .dcdReply seed body => decide (seed ≠ 0) && decide (Machine.replyBodyLen seed body = body.length)

/-- The record has all its bytes (R120, R130, R133), so that what follows it is not part of it. -/
def Instr.complete : Instr → Bool
  | .idle => true
  | .byte _ => true
  | .reset _ => true
  | .stop => true
  | .gcrAddressMark body => decide (body.length = 7)
  | .gcrDataMark body => decide (body.length = 706)
  | .mfmIndexMark => true
  | .mfmAddressMark body => decide (body.length = 6)
  | .mfmDataMark body => decide (body.length = 514)
  | .dcdFrame body => Machine.frameDone body
  | .dcdReply seed body => Machine.groupsDone seed.toNat body

end Sys2Proof
end

