-- ==== Sys2Proof/Decode.lean ====
section
/-! DEFINITION. Decoding and encoding (30_encoding.md). An input word decodes by R110 to R115. A
record decodes by its signature (R120, R195) at the front of the bytes of the window, in the context
that the mode and, on the DCD link, the decoder's seed give (R130, R133). -/

namespace Sys2Proof

/-- Why a word is reserved (R115). -/
inductive ReservedWord where
  | reservedBits
  | reservedMode
deriving DecidableEq, Repr

/-- What the bytes of a record are read as: the mode's signatures (R120), or the DCD link with the
seed of the decoder that waits for the sync byte (R130, R133). -/
inductive RecordContext where
  | gcr
  | mfm
  | dcd (seed : Option Bits7)
deriving DecidableEq, Repr

/-- An instruction's encoding: one input word (R110), or the bytes of a record read in a context. -/
inductive Code where
  | word (w : InputWord)
  | record (ctx : RecordContext) (bytes : List Byte)
deriving DecidableEq, Repr

/-- Why an encoding is no instruction. -/
inductive DecodeError where
  | reserved (r : ReservedWord)
  | noSignature
  | trailingBytes
deriving DecidableEq, Repr

/-- The mode of `mm`; `11` is reserved (R113, R115). -/
def decodeMode (mm : BitVec 2) : Except ReservedWord Mode :=
  match mm.toNat with
  | 0 => .ok .dcd
  | 1 => .ok .gcr
  | 2 => .ok .mfm
  | _ => .error .reservedMode

/-- The instruction of an input word, or why the word is reserved (R110 to R115). The reserved bits
are checked before the mode (R150). -/
def decodeWord (w : InputWord) : Except ReservedWord Instr :=
  let data : Byte := w.extractLsb' 0 8
  match (w.extractLsb' 8 2 : BitVec 2).toNat with
  | 0 => if data = 0 then .ok .idle else .error .reservedBits
  | 1 => .ok (.byte data)
  | 2 =>
    if (data.extractLsb' 2 6 : BitVec 6) = 0 then
      match decodeMode (data.extractLsb' 0 2) with
      | .ok m => .ok (.reset m)
      | .error e => .error e
    else .error .reservedBits
  | _ => if data = 0 then .ok .stop else .error .reservedBits

/-- The GCR record at the front of `bs`, and the bytes after it (R120, R122, R123). -/
def decodeGcrRecord (bs : List Byte) : Option (Instr × List Byte) :=
  if bs.take 3 = Machine.sigGcrAddr then some (.gcrAddressMark ((bs.drop 3).take 7), bs.drop 10)
  else if bs.take 3 = Machine.sigGcrData then some (.gcrDataMark ((bs.drop 3).take 706), bs.drop 709)
  else none

/-- The MFM record at the front of `bs`, and the bytes after it (R120, R124, R125). -/
def decodeMfmRecord (bs : List Byte) : Option (Instr × List Byte) :=
  if bs.take 4 = Machine.sigMfmIndex then some (.mfmIndexMark, bs.drop 4)
  else if bs.take 4 = Machine.sigMfmAddr then some (.mfmAddressMark ((bs.drop 4).take 6), bs.drop 10)
  else if bs.take 4 = Machine.sigMfmData then some (.mfmDataMark ((bs.drop 4).take 514), bs.drop 518)
  else none

/-- The DCD frame at the front of `bs`, for a decoder with this seed, and the bytes after it (R130 to
R133). A seed of 0 is no seed (R214). -/
def decodeDcdFrame (seed : Option Bits7) (bs : List Byte) : Option (Instr × List Byte) :=
  match bs with
  | [] => none
  | b :: rest =>
    if b = Machine.syncByte then
      match seed with
      | none =>
        some (.dcdFrame (rest.take (Machine.frameBodyLen rest)), rest.drop (Machine.frameBodyLen rest))
      | some n =>
        if n = 0 then
          some (.dcdFrame (rest.take (Machine.frameBodyLen rest)), rest.drop (Machine.frameBodyLen rest))
        else
          some (.dcdReply n (rest.take (Machine.replyBodyLen n rest)),
            rest.drop (Machine.replyBodyLen n rest))
    else none

/-- The record at the front of `bs` in this context, and the bytes after it; `none` where no
signature of the context stands there (R120, R195). -/
def decodeRecord (ctx : RecordContext) (bs : List Byte) : Option (Instr × List Byte) :=
  match ctx with
  | .gcr => decodeGcrRecord bs
  | .mfm => decodeMfmRecord bs
  | .dcd seed => decodeDcdFrame seed bs

/-- The instruction of an encoding, or why it is none. -/
def decode (c : Code) : Except DecodeError Instr :=
  match c with
  | .word w =>
    match decodeWord w with
    | .ok i => .ok i
    | .error r => .error (.reserved r)
  | .record ctx bs =>
    match decodeRecord ctx bs with
    | none => .error .noSignature
    | some (i, rest) => if rest = [] then .ok i else .error .trailingBytes

/-- `mm` of a mode (R113). -/
def encodeMode : Mode → BitVec 2
  | .dcd => 0
  | .gcr => 1
  | .mfm => 2

/-- An instruction's encoding (R111 to R114, R120 to R125, R130, R133). -/
def encode : Instr → Code
  | .idle => .word 0x000
  | .byte b => .word (0b01#2 ++ b)
  | .reset m => .word (0b10#2 ++ (0#6 ++ encodeMode m))
  | .stop => .word 0x300
  | .gcrAddressMark body => .record .gcr (Machine.sigGcrAddr ++ body)
  | .gcrDataMark body => .record .gcr (Machine.sigGcrData ++ body)
  | .mfmIndexMark => .record .mfm Machine.sigMfmIndex
  | .mfmAddressMark body => .record .mfm (Machine.sigMfmAddr ++ body)
  | .mfmDataMark body => .record .mfm (Machine.sigMfmData ++ body)
  | .dcdFrame body => .record (.dcd none) (Machine.syncByte :: body)
  | .dcdReply seed body => .record (.dcd (some seed)) (Machine.syncByte :: body)

/-- The words of an opcode-table row whose first bytes are the table's number `w`, `n` bytes of it,
the first byte the most significant (R120 reads the table's match so). -/
def tableBytes : Nat → Nat → List Byte
  | 0, _ => []
  | n + 1, w => BitVec.ofNat 8 (w / 256 ^ n) :: tableBytes n w

/-- The context of a row of the opcode table by the number of its bits: GCR signatures have 3 bytes,
MFM signatures 4, and the DCD sync byte one (R120, R130). -/
def tableContext (nbits : Nat) : Option RecordContext :=
  if nbits = 24 then some .gcr
  else if nbits = 32 then some .mfm
  else if nbits = 8 then some (.dcd none)
  else none

/-- The record's bytes of a table row, with zero bytes after them up to the longest record. -/
def tableRecord (nbits w : Nat) : List Byte := tableBytes (nbits / 8) w ++ List.replicate 706 0

/-- The instruction that the decoder reads from a row of spec/opcode_table.json whose bits are `w`: a
10-bit input word (given in 10 to 16 bits, the bits above bit 9 zero), or a signature followed by
zero bytes. The 8-bit row `AA` is both DCD_FRAME and DCD_REPLY: the seed, which is state, tells them
apart (R133), so with no seed it is DCD_FRAME. DESIGN CHOICE, safe: log entry 9. -/
def decodeTableWord (nbits w : Nat) : Option Instr :=
  if 10 ≤ nbits ∧ nbits ≤ 16 then
    if w < 1024 then
      match decodeWord (BitVec.ofNat 10 w) with
      | .ok i => some i
      | .error _ => none
    else none
  else if w < 2 ^ nbits then
    match tableContext nbits with
    | some ctx => (decodeRecord ctx (tableRecord nbits w)).map Prod.fst
    | none => none
  else none

end Sys2Proof
end

