-- ==== Sys2Proof/Machine/Flags.lean ====
section
/-! DEFINITION. The Boolean flags that are computed and not stored (10_state.md R45): hopefulness of
a DCD decoder (R41), validity of a completed frame (42_dcd.md R224), and whether the sequencer waits
for a word (40_operations.md R156, R157). The block has no condition codes. -/

namespace Sys2Proof.Machine

/-- A decoder is hopeful exactly when its phase is not GaveUp (R41). -/
def DcdDecoder.hopeful (d : DcdDecoder) : Bool := decide (d.phase ≠ .gaveUp)

/-- The polarity that a direction wants in the top bit of the first payload byte (R224). -/
def LinkDir.polarity : LinkDir → Bool
  | .h2p => false
  | .p2h => true

/-- `VALID(dir, p)` (R224, R134). -/
def validPayload (dir : LinkDir) (p : List Byte) : Bool :=
  match p with
  | [] => false
  | first :: _ => decide (byteSum p = 0) && decide (first.msb = dir.polarity)

/-- `want(site)`, the bytes that the pending PEEK wants (R32). The spec's table gives `Search` in GCR
and MFM mode; `Search` in DCD mode, which no run reaches, is read as `Dcd`. DESIGN CHOICE, safe: log
entry 8. -/
def want (m : Mode) (site : Site) : Nat :=
  match site with
  | .search =>
    match m with
    | .gcr => 3
    | .mfm => 4
    | .dcd => 1
  | .gcrAddr => 10
  | .gcrData => 709
  | .mfmAddr => 10
  | .mfmData => 518
  | .dcd => 1

/-- The pending PEEK cannot be served from the buffer, so a read is pending (R156, R190). -/
def State.waiting (s : State) : Bool :=
  decide (s.win.buf.length < want s.mode s.site) && !s.win.eos

end Sys2Proof.Machine
end

