-- ==== Sys2Proof/Machine/Dcd.lean ====
section
/-! DEFINITION. The DCD link codec (42_dcd.md R210 to R238): decoder reset, the decoder feed phase by
phase, link arbitration, and the meanings of DCD_FRAME and DCD_REPLY, in every state. DESIGN
CHOICE, safe: log entry 15. -/

namespace Sys2Proof.Machine

/-- `DCD_RESET(x)`: a seed of 0 is no seed (R214). -/
def dcdReset (x : Option Bits7) : DcdDecoder :=
  { DcdDecoder.unseeded with seed := if x = some 0 then none else x }

/-- The result of a decoder feed (R211). -/
inductive FeedResult where
  | hopeful
  | gaveUp
  | invalid
  | valid (payload : List Byte) (inGroups : Option Bits7) (syncProv : Option Prov)
deriving DecidableEq, Repr

/-- What a decoder feed returns: the new decoder, the result, and the events in order (R211). -/
structure FeedOut where
  dec : DcdDecoder
  res : FeedResult
  evs : List Event
deriving DecidableEq, Repr

/-- The result leaves the decoder not hopeful (R230, R233). -/
def FeedResult.lost : FeedResult → Bool
  | .gaveUp => true
  | .invalid => true
  | .hopeful => false
  | .valid .. => false

/-- `COMPLETE(d)` (R223). -/
def complete (dir : LinkDir) (d : DcdDecoder) : FeedOut :=
  if validPayload dir d.payload then ⟨d, .valid d.payload d.inGroups d.syncProv, []⟩
  else ⟨{ d with phase := .gaveUp }, .invalid,
    [.dcdFrameInvalid dir (byteSum d.payload) d.payload.head? d.syncProv]⟩

/-- `FEED_SEEK(d, b, prov)` without a seed (R215) and with one (R216). -/
def feedSeek (dir : LinkDir) (d : DcdDecoder) (b : Byte) (prov : Option Prov) : FeedOut :=
  if b ≠ syncByte then ⟨d, .hopeful, []⟩
  else
    match d.seed with
    | none =>
      ⟨{ d with syncProv := prov, phase := .readingHeader0 }, .hopeful, [.dcdSync dir .acquired prov]⟩
    | some n =>
      ⟨{ d with syncProv := prov, outGroups := n, inGroups := none, phase := .readingPayload },
        .hopeful, [.dcdSync dir .acquired prov]⟩

/-- `FEED_HDR0(d, b)` (R217). -/
def feedHdr0 (d : DcdDecoder) (b : Byte) : FeedOut :=
  ⟨{ d with outGroups := low7 b, phase := .readingHeader1 }, .hopeful, []⟩

/-- `START_PAYLOAD(d)`: no groups complete the frame at once (R218). -/
def startPayload (dir : LinkDir) (d : DcdDecoder) : FeedOut :=
  if d.outGroups = 0 then complete dir d
  else ⟨{ d with phase := .readingPayload }, .hopeful, []⟩

/-- `FEED_HDR1(d, b)` (R218). -/
def feedHdr1 (dir : LinkDir) (d : DcdDecoder) (b : Byte) : FeedOut :=
  startPayload dir { d with inGroups := some (low7 b) }

/-- `FEED_BODY(d, b)` (R219). -/
def feedBody (d : DcdDecoder) (b : Byte) : FeedOut :=
  let body := d.body ++ [low7 b]
  ⟨{ d with body := body, phase := if body.length = 7 then .awaitingCarrier else d.phase },
    .hopeful, []⟩

/-- The carrier bit that fills bit 7 of slot `k` (R131, R220). -/
def carrierBit (cfg : Config) (dir : LinkDir) (b : Byte) (k : Nat) : Bool :=
  match dir, cfg.p2hOrder with
  | .p2h, .msbFirst => b.getLsbD (6 - k)
  | .p2h, .lsbFirst => b.getLsbD k
  | .h2p, _ => b.getLsbD k

/-- The payload bytes of a group from its body bytes and its carrier (R131, R220). -/
def assembleGroup (cfg : Config) (dir : LinkDir) (body : List Bits7) (b : Byte) : List Byte :=
  body.mapIdx (fun k lo => joinBit7 (carrierBit cfg dir b k) lo)

/-- `FEED_CARRIER(d, b)` (R220). -/
def feedCarrier (cfg : Config) (dir : LinkDir) (d : DcdDecoder) (b : Byte) : FeedOut :=
  let d1 := { d with payload := d.payload ++ assembleGroup cfg dir d.body b, body := [] }
  if d1.payload.length = 7 * d1.outGroups.toNat then complete dir d1
  else ⟨{ d1 with phase := if b.msb then .readingPayload else .holdoff }, .hopeful, []⟩

/-- `FEED_HOLDOFF(d, b, prov)` (R221). -/
def feedHoldoff (dir : LinkDir) (d : DcdDecoder) (b : Byte) (prov : Option Prov) : FeedOut :=
  if b = syncByte then
    ⟨{ d with phase := .readingPayload }, .hopeful, [.dcdSync dir .resumed prov]⟩
  else ⟨{ d with phase := .gaveUp }, .gaveUp, [.dcdGaveUp dir .holdoffNoSync prov]⟩

/-- The phase's part of `DCD_FEED` (R212). -/
def feedPhase (cfg : Config) (dir : LinkDir) (d : DcdDecoder) (b : Byte) (prov : Option Prov) :
    FeedOut :=
  match d.phase with
  | .seekingSync => feedSeek dir d b prov
  | .readingHeader0 => feedHdr0 d b
  | .readingHeader1 => feedHdr1 dir d b
  | .readingPayload => feedBody d b
  | .awaitingCarrier => feedCarrier cfg dir d b
  | .holdoff => feedHoldoff dir d b prov
  | .gaveUp => ⟨d, .gaveUp, []⟩

/-- `DCD_FEED(d, b, prov)`: the Fresh event of the first byte after a reset, then the phase (R212,
R213). -/
def dcdFeed (cfg : Config) (dir : LinkDir) (d : DcdDecoder) (b : Byte) (prov : Option Prov) :
    FeedOut :=
  let out := feedPhase cfg dir { d with fresh := false } b prov
  { out with evs := (if d.fresh then [.dcdSync dir .fresh prov] else []) ++ out.evs }

/-- The two decoders after a feed of one byte, with both decoders' events emitted, H2P's first (R230). -/
def feedBoth (h p : FeedOut) (s : State) : State :=
  emitEvents (h.evs ++ p.evs) { s with h2p := h.dec, p2h := p.dec }

/-- The arbitration of `DCD_LINK_FEED` after both feeds (R230 to R233). A valid frame that the other
decoder misparses first resets both, R237's sentence to the contrary. DEDUCED, safe if R230 is meant as it
is written, unsafe else: log entry 17. -/
def arbitrate (h p : FeedOut) (prov : Option Prov) (s : State) : State :=
  match h.res, p.res with
  | .valid pl ig sp, _ =>
    { emitRecord .dcdH2P sp .none pl s with p2h := dcdReset ig, h2p := dcdReset none }
  | _, .valid pl ig sp =>
    { emitRecord .dcdP2H sp .none pl s with h2p := dcdReset ig, p2h := dcdReset none }
  | rh, rp =>
    if rh.lost && rp.lost then
      { emitEvent (.desync prov) s with h2p := dcdReset none, p2h := dcdReset none }
    else s

/-- `DCD_LINK_FEED(s, b, prov)` (R230). -/
def linkFeed (b : Byte) (prov : Option Prov) (s : State) : State :=
  let h := dcdFeed s.cfg .h2p s.h2p b prov
  let p := dcdFeed s.cfg .p2h s.p2h b prov
  arbitrate h p prov (feedBoth h p s)

/-- The work of site `Dcd` on one byte: feed it to the link, and POP it (R160). -/
def actDcdByte (b : Byte) (s : State) : State :=
  { pop 1 (linkFeed b (peekResult s 1).1 s) with site := .dcd }

/-- The work of site `Dcd` on each byte of a frame in turn (R156, R160). -/
def feedBytes (bs : List Byte) (s : State) : State := bs.foldl (fun s b => actDcdByte b s) s

/-- DCD_FRAME (R215, R130): the sync byte and the frame's bytes are fed to the link one after
another, each with the provenance of the window entry at the front. -/
def execDcdFrame (body : List Byte) (s : State) : Host.Outcome State Fault Refusal :=
  .next (feedBytes (syncByte :: body) s)

/-- DCD_REPLY (R216, R133): as DCD_FRAME, for the seeded form. The seed is the decoder's own (R39), so
the feed reads it from the state. -/
def execDcdReply (_seed : Bits7) (body : List Byte) (s : State) : Host.Outcome State Fault Refusal :=
  .next (feedBytes (syncByte :: body) s)

end Sys2Proof.Machine
end

