-- ==== Sys2Proof/Machine/Operands.lean ====
section
/-! DEFINITION. The operand forms: field extraction (30_encoding.md R135), the nibble lookup (43_gcr.md
R263), the track and side layout (R270), the denibblizer (R277), the rotating checksum (R281 to R284)
and CRC-16/CCITT (44_mfm.md R321). The datapath registers are values here, not state (R37, R38).
DEDUCED, safe: log entry 12. -/

namespace Sys2Proof.Machine

/-! ## Nibbles -/

/-- `LOOKUP(b) = NIB_TABLE[b[6:0]]`, a nibble value or INVALID (`none`); bit 7 takes no part (R263). -/
def lookup (cfg : Config) (b : Byte) : Option Nibble := cfg.nibTable.getD (low7 b).toNat none

/-- The INVALID raw bytes of `r`, in record order (R268, R276). -/
def invalidSymbols (cfg : Config) (r : List Byte) : List Byte :=
  r.filter (fun b => decide (lookup cfg b = none))

/-- The nibble values of the symbols of `r`; where none is INVALID, one for each byte (R266, R276). -/
def nibbles (cfg : Config) (r : List Byte) : List Nibble := r.filterMap (lookup cfg)

/-- The source bit of a layout (R270). -/
def nibbleBit (n0 n2 : Nibble) : NibbleBit → Bool
  | .n0 i => n0.getLsbD i
  | .n2 i => n2.getLsbD i

/-- The number whose bits are `bs`, bit 0 first. -/
def bitsToNat : List Bool → Nat
  | [] => 0
  | b :: bs => b.toNat + 2 * bitsToNat bs

/-- The track of `GCR_TRACK_SIDE(n0, n2)` (R270). -/
def gcrTrack (cfg : Config) (n0 n2 : Nibble) : Bits7 :=
  BitVec.ofNat 7 (bitsToNat (cfg.trackSide.track.map (nibbleBit n0 n2)))

/-- The side of `GCR_TRACK_SIDE(n0, n2)` (R270). -/
def gcrSide (cfg : Config) (n0 n2 : Nibble) : BitVec 1 :=
  BitVec.ofBool (nibbleBit n0 n2 cfg.trackSide.side)

/-! ## The denibblizer -/

/-- Output `k` of a run: `v | ((hi << 2k) & 0xC0)` (R277). -/
def denibOut (hi v : Nibble) (k : Nat) : Byte :=
  v.setWidth 8 ||| ((hi.setWidth 8 <<< (2 * k)) &&& 0xC0)

/-- The error of a run that ends after `j` outputs: the hi bits not yet used, if one is set (R278). -/
def denibPending (hi : Nibble) (j : Nat) : Option (Nibble × Nat) :=
  let pending := hi &&& ((1#6 <<< (6 - 2 * j)) - 1)
  if pending = 0 then none else some (pending, j)

/-- `DENIB(v)`: the bytes, and the error of the last run if it has one (R277, R278). R279 names
another index as the one cause of an error in a data mark. DEDUCED, safe if R277 is meant, unsafe else:
log entry 11. -/
def denib : List Nibble → List Byte × Option (Nibble × Nat)
  | [] => ([], none)
  | [hi] => ([], denibPending hi 0)
  | [hi, a] => ([denibOut hi a 1], denibPending hi 1)
  | [hi, a, b] => ([denibOut hi a 1, denibOut hi b 2], denibPending hi 2)
  | hi :: a :: b :: c :: rest =>
    let (out, err) := denib rest
    (denibOut hi a 1 :: denibOut hi b 2 :: denibOut hi c 3 :: out, err)

/-! ## The rotating checksum -/

/-- The accumulators A, B, C (R37). -/
structure Acc where
  a : Byte
  b : Byte
  c : Byte
deriving DecidableEq, Repr

/-- An addition into an accumulator: the sum and the carry out. Under `Mod256` the carry in takes no
part; under `Chained` it is added (R281, R284). -/
def accAdd (m : GcrAdd) (acc x : Byte) (cy : Bool) : Byte × Bool :=
  let t : BitVec 9 := acc.setWidth 9 + x.setWidth 9 +
    (match m with
      | .mod256 => 0
      | .chained => (BitVec.ofBool cy).setWidth 9)
  (t.setWidth 8, t.msb)

/-- The checksum's steps over `D` from given accumulators, group by group. The steps of the bytes that
a short final group does not have are left out (R281, R282, R284). -/
def cksumFrom (m : GcrAdd) (acc : Acc) : List Byte → List Byte × Acc
  | [] => ([], acc)
  | [x] =>
    let c1 := rol8 acc.c
    let x' := x ^^^ c1
    let a1 := accAdd m acc.a x' acc.c.msb
    ([x'], ⟨a1.1, acc.b, c1⟩)
  | [x, y] =>
    let c1 := rol8 acc.c
    let x' := x ^^^ c1
    let a1 := accAdd m acc.a x' acc.c.msb
    let y' := y ^^^ a1.1
    let b1 := accAdd m acc.b y' a1.2
    ([x', y'], ⟨a1.1, b1.1, c1⟩)
  | x :: y :: z :: rest =>
    let c1 := rol8 acc.c
    let x' := x ^^^ c1
    let a1 := accAdd m acc.a x' acc.c.msb
    let y' := y ^^^ a1.1
    let b1 := accAdd m acc.b y' a1.2
    let z' := z ^^^ b1.1
    let c2 := accAdd m c1 z' b1.2
    withValue a1.1 fun a => withValue b1.1 fun b => withValue c2.1 fun c =>
      let (out, last) := cksumFrom m ⟨a, b, c⟩ rest
      (x' :: y' :: z' :: out, last)

/-- `CKSUM(D)`: the decoded payload and the accumulators, from A = B = C = 0 (R281, R283, R284). -/
def cksum (m : GcrAdd) (d : List Byte) : List Byte × Acc := cksumFrom m ⟨0, 0, 0⟩ d

/-! ## CRC-16/CCITT -/

/-- One bit of `CRC_STEP` (R321). -/
def crcBit (c : Crc) : Crc := if c.msb then (c <<< 1) ^^^ 0x1021 else c <<< 1

/-- `n` bits of `CRC_STEP`. -/
def crcBits : Nat → Crc → Crc
  | 0, c => c
  | n + 1, c => withValue (crcBit c) (crcBits n)

/-- `CRC_STEP(c, b)`: the byte enters at the top, most significant bit first (R321). -/
def crcStep (c : Crc) (b : Byte) : Crc := crcBits 8 (c ^^^ (b.setWidth 16 <<< 8))

/-- The register after the bytes of `r`, from `c`. -/
def crcFrom (c : Crc) : List Byte → Crc
  | [] => c
  | b :: r => withValue (crcStep c b) (fun c' => crcFrom c' r)

/-- `CRC(r)`, from `0xFFFF`, with no final XOR (R321, R322). -/
def crc (r : List Byte) : Crc := crcFrom 0xFFFF r

/-- The MFM sector size in bytes, `sizeCode × 256` (R327). -/
def mfmSize (sizeCode : Byte) : BitVec 16 := sizeCode.setWidth 16 * 256

end Sys2Proof.Machine
end

