-- ==== Sys2Proof/Machine/Gcr.lean ====
section
/-! DEFINITION. The GCR sector decoder (43_gcr.md R260 to R290): the evaluation of an address-mark and
of a data-mark candidate, and the meanings of GCR_ADDRESS_MARK and GCR_DATA_MARK, in every
state. DESIGN CHOICE, safe: log entry 15. -/

namespace Sys2Proof.Machine

/-- `GCR_ADDR_EVAL(s, prov, r)` (R266). The bit-slip bytes `r[8..9]` are not read (R289). -/
def gcrAddrEval (prov : Option Prov) (r : List Byte) (s : State) : State :=
  if r.length < lenGcrAddr then failCandidate (.truncated prov .gcrAddr r.length) s
  else
    let syms := slice r 3 5
    let bad := invalidSymbols s.cfg syms
    if bad ≠ [] then failCandidate (.invalidSymbol prov .gcrAddr bad) s
    else
      let n := nibbles s.cfg syms
      let x := nibbleAt n 0 ^^^ nibbleAt n 1 ^^^ nibbleAt n 2 ^^^ nibbleAt n 3
      if x ≠ nibbleAt n 4 then
        failCandidate (.checksumMismatch prov .gcrAddr (.nibble x) (.nibble (nibbleAt n 4))) s
      else
        let track := gcrTrack s.cfg (nibbleAt n 0) (nibbleAt n 2)
        let side := gcrSide s.cfg (nibbleAt n 0) (nibbleAt n 2)
        pop lenGcrAddr
          (emitEvent (.gcrAddressMark prov track (nibbleAt n 1) side (nibbleAt n 3))
            { s with ggeom := some ⟨track, nibbleAt n 1, side, nibbleAt n 3⟩ })

/-- The geometry of a GCR record (R140, R288). -/
def gcrGeom (g : Option GcrGeom) : Geom :=
  match g with
  | some g => .gcr g
  | none => .none

/-- `GCR_DATA_EVAL(s, prov, r)` (R275), its checks in the order of R286. The bit-slip bytes
`r[707..708]` are not read (R289). -/
def gcrDataEval (prov : Option Prov) (r : List Byte) (s : State) : State :=
  if r.length < lenGcrData then failCandidate (.truncated prov .gcrData r.length) s
  else
    match lookup s.cfg (byteAt r 3) with
    | none => failCandidate (.invalidSymbol prov .gcrData [byteAt r 3]) s
    | some sec =>
      let syms := slice r 4 703
      let bad := invalidSymbols s.cfg syms
      if bad ≠ [] then failCandidate (.invalidSymbol prov .gcrData bad) s
      else
        let v := nibbles s.cfg syms
        let d := denib (v.take 699)
        match d.2 with
        | some (pending, j) => failCandidate (.denibError prov pending j) s
        | none =>
          let t := (denib (v.drop 699)).1
          let k := cksum s.cfg.gcrAdd d.1
          if [k.2.a, k.2.b, k.2.c] ≠ t then
            failCandidate (.checksumMismatch prov .gcrData (.triple k.2.a k.2.b k.2.c)
              (.triple (byteAt t 0) (byteAt t 1) (byteAt t 2))) s
          else if s.ggeom.map GcrGeom.sector ≠ some sec then
            failCandidate (.sectorMismatch prov sec (s.ggeom.map GcrGeom.sector)) s
          else pop lenGcrData (emitRecord .gcrData prov (gcrGeom s.ggeom) k.1 s)

/-- The work of site `GcrAddr`: the evaluation, then back to `Search` (R158, R162). -/
def actGcrAddr (prov : Option Prov) (r : List Byte) (s : State) : State :=
  toSearch (gcrAddrEval prov r s)

/-- The work of site `GcrData`: the evaluation, then back to `Search` (R158, R162). -/
def actGcrData (prov : Option Prov) (r : List Byte) (s : State) : State :=
  toSearch (gcrDataEval prov r s)

/-- GCR_ADDRESS_MARK (R266): the record is evaluated as the candidate at the front of the window, and
the sequencer returns to `Search`. -/
def execGcrAddressMark (body : List Byte) (s : State) : Host.Outcome State Fault Refusal :=
  .next (actGcrAddr (peekResult s 1).1 (sigGcrAddr ++ body) s)

/-- GCR_DATA_MARK (R275): the record is evaluated as the candidate at the front of the window, and the
sequencer returns to `Search`. -/
def execGcrDataMark (body : List Byte) (s : State) : Host.Outcome State Fault Refusal :=
  .next (actGcrData (peekResult s 1).1 (sigGcrData ++ body) s)

end Sys2Proof.Machine
end

