-- ==== Sys2Proof/Machine/Mfm.lean ====
section
/-! DEFINITION. The MFM sector decoder (44_mfm.md R320 to R333): the index mark, the evaluation of an
address-mark and of a data-mark candidate, and the meanings of the three MFM rows, in every
state. DESIGN CHOICE, safe: log entry 15. -/

namespace Sys2Proof.Machine

/-- `MFM_INDEX(s, prov)` (R324). -/
def mfmIndex (prov : Option Prov) (s : State) : State := pop 4 (emitEvent (.mfmIndexMark prov) s)

/-- The CrcMismatch of a candidate of `n` bytes: the CRC of the record without its last two bytes, and
those two bytes, high byte first (R329). -/
def crcMismatchEvent (prov : Option Prov) (kind : Kind) (r : List Byte) (n : Nat) : Event :=
  .crcMismatch prov kind (crc (r.take (n - 2))) (word16 (byteAt r (n - 2)) (byteAt r (n - 1)))

/-- `MFM_ADDR_EVAL(s, prov, r)` (R325). -/
def mfmAddrEval (prov : Option Prov) (r : List Byte) (s : State) : State :=
  if r.length < lenMfmAddr then failCandidate (.truncated prov .mfmAddr r.length) s
  else if crc r ≠ 0 then failCandidate (crcMismatchEvent prov .mfmAddr r lenMfmAddr) s
  else
    pop lenMfmAddr
      (emitEvent (.mfmAddressMark prov (byteAt r 4) (byteAt r 5) (byteAt r 6) (mfmSize (byteAt r 7)))
        { s with mgeom := some ⟨byteAt r 4, byteAt r 5, byteAt r 6, byteAt r 7⟩ })

/-- The geometry of an MFM record (R140, R328). -/
def mfmGeom (g : Option MfmGeom) : Geom :=
  match g with
  | some g => .mfm g
  | none => .none

/-- `MFM_DATA_EVAL(s, prov, r)` (R328). -/
def mfmDataEval (prov : Option Prov) (r : List Byte) (s : State) : State :=
  if r.length < lenMfmData then failCandidate (.truncated prov .mfmData r.length) s
  else if crc r ≠ 0 then failCandidate (crcMismatchEvent prov .mfmData r lenMfmData) s
  else pop lenMfmData (emitRecord .mfmData prov (mfmGeom s.mgeom) (slice r 4 512) s)

/-- The work of an index mark found at `Search`; the sequencer stays at `Search` (R159). -/
def actMfmIndex (prov : Option Prov) (s : State) : State := toSearch (mfmIndex prov s)

/-- The work of site `MfmAddr`: the evaluation, then back to `Search` (R159, R162). -/
def actMfmAddr (prov : Option Prov) (r : List Byte) (s : State) : State :=
  toSearch (mfmAddrEval prov r s)

/-- The work of site `MfmData`: the evaluation, then back to `Search` (R159, R162). -/
def actMfmData (prov : Option Prov) (r : List Byte) (s : State) : State :=
  toSearch (mfmDataEval prov r s)

/-- MFM_INDEX_MARK (R324). -/
def execMfmIndexMark (s : State) : Host.Outcome State Fault Refusal :=
  .next (actMfmIndex (peekResult s 1).1 s)

/-- MFM_ADDRESS_MARK (R325): the record is evaluated as the candidate at the front of the window, and
the sequencer returns to `Search`. -/
def execMfmAddressMark (body : List Byte) (s : State) : Host.Outcome State Fault Refusal :=
  .next (actMfmAddr (peekResult s 1).1 (sigMfmAddr ++ body) s)

/-- MFM_DATA_MARK (R328): the record is evaluated as the candidate at the front of the window, and the
sequencer returns to `Search`. -/
def execMfmDataMark (body : List Byte) (s : State) : Host.Outcome State Fault Refusal :=
  .next (actMfmData (peekResult s 1).1 (sigMfmData ++ body) s)

end Sys2Proof.Machine
end

