-- ==== Sys2Proof/Machine/Sequencer.lean ====
section
/-! DEFINITION. The sequencer (40_operations.md R156 to R162): what it does with a completed PEEK, the
loop from one read point to the next, and the record that stands at its site. -/

namespace Sys2Proof.Machine

/-- `ACT(s, Search, prov, r)` in GCR mode (R158). A result shorter than 3 bytes is a miss (R195). -/
def actGcrSearch (r : List Byte) (s : State) : State :=
  if r = sigGcrAddr then { s with site := .gcrAddr }
  else if r = sigGcrData then { s with site := .gcrData }
  else toSearch (skip s)

/-- `ACT(s, Search, prov, r)` in MFM mode (R159). A result shorter than 4 bytes is a miss (R195). -/
def actMfmSearch (prov : Option Prov) (r : List Byte) (s : State) : State :=
  if r = sigMfmIndex then actMfmIndex prov s
  else if r = sigMfmAddr then { s with site := .mfmAddr }
  else if r = sigMfmData then { s with site := .mfmData }
  else toSearch (skip s)

/-- `ACT(s, Dcd, prov, r)` (R160). -/
def actDcd (r : List Byte) (s : State) : State :=
  match r with
  | [] => { pop 1 s with site := .dcd }
  | b :: _ => actDcdByte b s

/-- `ACT(s, s.site, prov, r)` on the completed PEEK of the site (R156, R158 to R160). A record site
belongs to one mode, and its work does not ask the mode. DESIGN CHOICE, safe: log entry 8 (a site of
another mode, which no run reaches). -/
def act (s : State) : State :=
  let p := peekResult s (want s.mode s.site)
  match s.site with
  | .search =>
    match s.mode with
    | .gcr => actGcrSearch p.2 s
    | .mfm => actMfmSearch p.1 p.2 s
    | .dcd => actDcd p.2 s
  | .gcrAddr => actGcrAddr p.1 p.2 s
  | .gcrData => actGcrData p.1 p.2 s
  | .mfmAddr => actMfmAddr p.1 p.2 s
  | .mfmData => actMfmData p.1 p.2 s
  | .dcd => actDcd p.2 s

/-- The loop of RESUME with a bound on its iterations (R156). -/
def resumeFor : Nat → State → State
  | 0, s => s
  | n + 1, s => if (act s).waiting then act s else resumeFor n (act s)

/-- `RESUME(s)`: from the completion of the pending PEEK until the next PEEK that must read. The bound
is that of R157(b). -/
def resume (s : State) : State := resumeFor (2 * s.win.buf.length + 2) s

/-- The seed of the link's decoder that waits for a sync byte: a seeded one's seed, `some none` if
only unseeded ones wait, `none` if none waits (R215, R216). -/
def linkSeed (s : State) : Option (Option Bits7) :=
  let seeks (d : DcdDecoder) : Bool := decide (d.phase = .seekingSync)
  if seeks s.h2p && s.h2p.seed.isSome then some s.h2p.seed
  else if seeks s.p2h && s.p2h.seed.isSome then some s.p2h.seed
  else if seeks s.h2p || seeks s.p2h then some none
  else none

/-- The context in which the bytes at the front of the window are a record at the sequencer's site. At
`Search` only an MFM index mark is evaluated; the other signatures move the sequencer to their own
site first (R158, R159). -/
def siteContext (s : State) : Option RecordContext :=
  match s.site with
  | .search =>
    match s.mode with
    | .gcr => none
    | .mfm => some .mfm
    | .dcd => (linkSeed s).map .dcd
  | .gcrAddr => some .gcr
  | .gcrData => some .gcr
  | .mfmAddr => some .mfm
  | .mfmData => some .mfm
  | .dcd => (linkSeed s).map .dcd

/-- The record instruction `i` is the one that this site evaluates. -/
def siteRuns (site : Site) (i : Instr) : Bool :=
  match site, i with
  | .search, .mfmIndexMark => true
  | .search, .dcdFrame _ => true
  | .search, .dcdReply _ _ => true
  | .gcrAddr, .gcrAddressMark _ => true
  | .gcrData, .gcrDataMark _ => true
  | .mfmAddr, .mfmAddressMark _ => true
  | .mfmData, .mfmDataMark _ => true
  | .dcd, .dcdFrame _ => true
  | .dcd, .dcdReply _ _ => true
  | _, _ => false

/-- The record instruction that stands at the front of the window and that the sequencer's site
evaluates next, if there is one. -/
def fetchRecord (s : State) : Option Instr :=
  match siteContext s with
  | none => none
  | some ctx =>
    match decodeRecord ctx (s.win.buf.map Entry.byte) with
    | none => none
    | some (i, _) => if siteRuns s.site i then some i else none

end Sys2Proof.Machine
end

