-- ==== Sys2Proof/Machine/Session.lean ====
section
/-! DEFINITION. The four input words (40_operations.md R150 to R155): IDLE, BYTE, RESET and STOP. -/

namespace Sys2Proof.Machine

/-- The words other than RESET are refused before the first RESET and after a STOP (R150, R152, R153). -/
def whenRunning (f : State → State) (s : State) : State :=
  match s.run with
  | .unconfigured => refuse .unconfigured s
  | .stopped => refuse .afterStop s
  | .running => f s

/-- `OP_IDLE(s)` (R154). -/
def opIdle (s : State) : State :=
  let s1 := framerIdle s
  resume { s1 with win := { s1.win with eos := true } }

/-- `OP_BYTE(s, b)` (R155). -/
def opByte (b : Byte) (s : State) : State :=
  let s1 := readByte b s
  if want s1.mode s1.site ≤ s1.win.buf.length then resume s1 else s1

/-- The site at which a session starts (R32, R151). -/
def startSite (m : Mode) : Site :=
  match m with
  | .dcd => .dcd
  | .gcr => .search
  | .mfm => .search

/-- `OP_RESET(s, mm)` for a mode that is not reserved (R47, R151). -/
def opReset (m : Mode) (s : State) : State :=
  { s with
    run := .running
    mode := m
    site := startSite m
    fr := ⟨0, 0, false, 0, 0⟩
    win := ⟨[], false⟩
    ggeom := none
    mgeom := none
    h2p := dcdReset none
    p2h := dcdReset none }

/-- `OP_STOP(s)` (R153). -/
def opStop (s : State) : State := { s with run := .stopped }

/-- IDLE (R154). -/
def execIdle (s : State) : Host.Outcome State Fault Refusal := .next (whenRunning opIdle s)

/-- BYTE (R155). -/
def execByte (b : Byte) (s : State) : Host.Outcome State Fault Refusal :=
  .next (whenRunning (opByte b) s)

/-- RESET (R151), accepted in every run state. -/
def execReset (m : Mode) (s : State) : Host.Outcome State Fault Refusal := .next (opReset m s)

/-- STOP (R153). -/
def execStop (s : State) : Host.Outcome State Fault Refusal := .next (whenRunning opStop s)

/-- A reserved word is refused whatever the run state (R115, R150). -/
def refuseReserved (r : ReservedWord) (s : State) : State :=
  match r with
  | .reservedBits => refuse .reservedBits s
  | .reservedMode => refuse .reservedMode s

/-- The sequencer can go on without a read: a session is running and the pending PEEK is served by the
window. Between the steps of a run this is never so (R157). -/
def State.busy (s : State) : Bool := decide (s.run = .running) && !s.waiting

end Sys2Proof.Machine
end

