-- ==== Sys2Proof/Machine/Dispatch.lean ====
section
/-! DEFINITION. The meaning of each instruction, one arm per constructor of Instr. -/

namespace Sys2Proof.Machine

def exec (i : Instr) (s : State) : Host.Outcome State Fault Refusal :=
  match i with
  -- the input words (40_operations.md)
  | .idle => Sys2Proof.Machine.execIdle s
  | .byte b => Sys2Proof.Machine.execByte b s
  | .reset m => Sys2Proof.Machine.execReset m s
  | .stop => Sys2Proof.Machine.execStop s
  -- the GCR records (43_gcr.md)
  | .gcrAddressMark body => Sys2Proof.Machine.execGcrAddressMark body s
  | .gcrDataMark body => Sys2Proof.Machine.execGcrDataMark body s
  -- the MFM records (44_mfm.md)
  | .mfmIndexMark => Sys2Proof.Machine.execMfmIndexMark s
  | .mfmAddressMark body => Sys2Proof.Machine.execMfmAddressMark body s
  | .mfmDataMark body => Sys2Proof.Machine.execMfmDataMark body s
  -- the DCD frames (42_dcd.md)
  | .dcdFrame body => Sys2Proof.Machine.execDcdFrame body s
  | .dcdReply seed body => Sys2Proof.Machine.execDcdReply seed body s

end Sys2Proof.Machine
end

