-- ==== Sys2Proof/Machine/Load.lean ====
section
/-! DEFINITION. Placing an instruction where the next step fetches: an input word at the head of the
input port, or a record at the front of the window of a running session, at the site that evaluates
it. DESIGN CHOICE, safe: log entry 10. -/

namespace Sys2Proof.Machine

/-- The bytes as window entries, tagged as the bytes of one transaction. -/
def entriesFrom (m : Mode) : Nat → List Byte → List Entry
  | _, [] => []
  | off, b :: bs =>
    ⟨b, ⟨0, match m with
        | .gcr => some (bit7 b)
        | .dcd => none
        | .mfm => none, off⟩⟩ :: entriesFrom m (off + 1) bs

/-- A running session of mode `m` whose sequencer is at `site` with `bs` in its window. -/
def placeRecord (m : Mode) (site : Site) (bs : List Byte) (s : State) : State :=
  { s with run := .running, mode := m, site := site, win := ⟨entriesFrom m 0 bs, false⟩ }

/-- Place the record that the bytes `bs` begin with in this context, and nothing after it. A DCD frame
is placed before two decoders that wait for a sync byte without a seed. Bytes that begin no record
are placed at the session's first site. -/
def loadRecord (ctx : RecordContext) (bs : List Byte) (s : State) : State :=
  match ctx with
  | .gcr =>
    match (decodeRecord .gcr bs).map Prod.fst with
    | some (.gcrAddressMark body) => placeRecord .gcr .gcrAddr (sigGcrAddr ++ body) s
    | some (.gcrDataMark body) => placeRecord .gcr .gcrData (sigGcrData ++ body) s
    | _ => placeRecord .gcr .search (bs.take 3) s
  | .mfm =>
    match (decodeRecord .mfm bs).map Prod.fst with
    | some (.mfmAddressMark body) => placeRecord .mfm .mfmAddr (sigMfmAddr ++ body) s
    | some (.mfmDataMark body) => placeRecord .mfm .mfmData (sigMfmData ++ body) s
    | _ => placeRecord .mfm .search (bs.take 4) s
  | .dcd seed =>
    let s1 := { s with h2p := dcdReset none, p2h := dcdReset seed }
    match (decodeRecord (.dcd seed) bs).map Prod.fst with
    | some (.dcdFrame body) => placeRecord .dcd .dcd (syncByte :: body) s1
    | some (.dcdReply _ body) => placeRecord .dcd .dcd (syncByte :: body) s1
    | _ => placeRecord .dcd .dcd (bs.take 1) s1

/-- Place an input word at the head of the input port. A sequencer that could go on without a read is
given an empty window, so that the next step reads the word. -/
def loadWord (w : InputWord) (s : State) : State :=
  let s1 := if s.busy then { s with win := ⟨[], false⟩ } else s
  { s1 with input := w :: s.input }

/-- Place the row of the opcode table whose bits are `w`; see `decodeTableWord`. -/
def loadTableWord (nbits w : Nat) (s : State) : State :=
  if 10 ≤ nbits ∧ nbits ≤ 16 then loadWord (BitVec.ofNat 10 w) s
  else
    match tableContext nbits with
    | some ctx => loadRecord ctx (tableRecord nbits w) s
    | none => s

end Sys2Proof.Machine
end

