-- ==== Sys2Proof/Machine/Step.lean ====
section
/-! DEFINITION. One step of the block (40_operations.md R150): it reads one input word, and runs to the
next read point. Where the host has not answered the read yet, the block holds (R6, R16). Where the
window already serves the pending PEEK, the sequencer does its next work without a read (R190); no
step of a run leaves it so (R157). -/

namespace Sys2Proof.Machine

/-- Read the next input word (R150, R155). -/
def stepRead (s : State) : Host.Outcome State Fault Refusal :=
  match s.input with
  | [] => .next s
  | w :: ws =>
    match decodeWord w with
    | .ok i => exec i { s with input := ws }
    | .error r => .next (refuseReserved r { s with input := ws })

/-- Go on without a read: the record at the front of the window, or else the site's work on what
stands there (R156, R190). -/
def stepServe (s : State) : Host.Outcome State Fault Refusal :=
  match fetchRecord s with
  | some i => exec i s
  | none => .next (act s)

/-- One step (R150). -/
def step (s : State) : Host.Outcome State Fault Refusal :=
  if s.busy then stepServe s else stepRead s

/-- `s` with a row of the opcode table placed where the next step fetches its instruction. -/
def State.withFetchWord (s : State) (nbits w : Nat) : State := loadTableWord nbits w s

end Sys2Proof.Machine
end

