-- ==== Sys2Proof/Machine/Assembler.lean ====
section
/-! DEFINITION. The pseudo-instructions of 30_encoding.md R146 to R148, which expand to BYTE words: the
encoders that the decoders of 42_dcd.md to 44_mfm.md undo. -/

namespace Sys2Proof.Machine

/-- `BYTE b` as a word (R112). -/
def byteWord (b : Byte) : InputWord := 0b01#2 ++ b

/-- `BYTES b0 b1 ... bk` (R146). -/
def byteWords (bs : List Byte) : List InputWord := bs.map byteWord

/-- `FILL b, n` (R146). -/
def fillWords (b : Byte) (n : Nat) : List InputWord := byteWords (List.replicate n b)

/-- `E(v)`, the symbol of value `v` under the default table (R146, R262). -/
def symbolOf (v : Nibble) : Byte := defaultSymbols.getD v.toNat 0

/-- The bit-slip trailer `DE AA` (R122, R123). -/
def bitSlip : List Byte := [0xDE, 0xAA]

/-- `GCRADDR track, sector, side, fmt` (R146). -/
def asmGcrAddr (track : Bits7) (sector : Nibble) (side : BitVec 1) (fmt : Nibble) : List Byte :=
  let n0 : Nibble := track.extractLsb' 0 6
  let n2 : Nibble := side ++ (0#4 ++ track.extractLsb' 6 1)
  sigGcrAddr ++ [n0, sector, n2, fmt, n0 ^^^ sector ^^^ n2 ^^^ fmt].map symbolOf ++ bitSlip

/-- `SCRAMBLE(P)` from given accumulators, under either addition (R147; S1). -/
def scrambleFrom (m : GcrAdd) (acc : Acc) : List Byte → List Byte × Acc
  | [] => ([], acc)
  | [x] =>
    let c1 := rol8 acc.c
    let a1 := accAdd m acc.a x acc.c.msb
    ([x ^^^ c1], ⟨a1.1, acc.b, c1⟩)
  | [x, y] =>
    let c1 := rol8 acc.c
    let a1 := accAdd m acc.a x acc.c.msb
    let b1 := accAdd m acc.b y a1.2
    ([x ^^^ c1, y ^^^ a1.1], ⟨a1.1, b1.1, c1⟩)
  | x :: y :: z :: rest =>
    let c1 := rol8 acc.c
    let a1 := accAdd m acc.a x acc.c.msb
    let b1 := accAdd m acc.b y a1.2
    let c2 := accAdd m c1 z b1.2
    let (out, last) := scrambleFrom m ⟨a1.1, b1.1, c2.1⟩ rest
    ((x ^^^ c1) :: (y ^^^ a1.1) :: (z ^^^ b1.1) :: out, last)

/-- `SCRAMBLE(P)`, from A = B = C = 0 (R147). -/
def scramble (m : GcrAdd) (p : List Byte) : List Byte × Acc := scrambleFrom m ⟨0, 0, 0⟩ p

/-- `y[7:6]` (R147). -/
def top2 (y : Byte) : BitVec 2 := y.extractLsb' 6 2

/-- `y[5:0]` (R147). -/
def low6 (y : Byte) : Nibble := y.extractLsb' 0 6

/-- `PACK(Y)` (R147): for each run of up to 3 bytes the hi value, then the low 6 bits of each. -/
def pack : List Byte → List Nibble
  | [] => []
  | [x] => [top2 x ++ 0#4, low6 x]
  | [x, y] => [top2 x ++ (top2 y ++ 0#2), low6 x, low6 y]
  | x :: y :: z :: rest =>
    (top2 x ++ (top2 y ++ top2 z)) :: low6 x :: low6 y :: low6 z :: pack rest

/-- The bytes of a data mark after its signature for payload `p` and sector `sector` (R147). -/
def asmGcrDataBody (sector : Nibble) (p : List Byte) : List Byte :=
  let x := scramble .mod256 p
  symbolOf sector :: (pack x.1 ++ pack [x.2.a, x.2.b, x.2.c]).map symbolOf ++ bitSlip

/-- `GCRDATA sector, P` (R147). -/
def asmGcrData (sector : Nibble) (p : List Byte) : List Byte := sigGcrData ++ asmGcrDataBody sector p

/-- A record's bytes with their CRC, high byte first (R146). -/
def withCrc (r : List Byte) : List Byte :=
  r ++ [(crc r).extractLsb' 8 8, (crc r).extractLsb' 0 8]

/-- `MFMADDR track, side, sector, size` (R146). -/
def asmMfmAddr (track side sector size : Byte) : List Byte :=
  withCrc (sigMfmAddr ++ [track, side, sector, size])

/-- `MFMDATA P` (R146). -/
def asmMfmData (p : List Byte) : List Byte := withCrc (sigMfmData ++ p)

/-- A carrier byte: the continuation flag, then bit 7 of each payload byte, slot 0 in bit 0 (R148). -/
def carrierOf (cont : Bool) (g : List Byte) : Byte :=
  joinBit7 cont (BitVec.ofNat 7 (bitsToNat (g.map BitVec.msb)))

/-- The groups of `DCDFRAME` and `DCDREPLY` (R148): `gs` are the payload bytes group by group, `conts`
the continuation flags; after a group that is not the last one and whose flag is clear comes `AA`. A flag
that `conts` lacks reads as set, and one beyond the groups is not read. DESIGN CHOICE, safe: log
entry 16. -/
def asmGroups : List (List Byte) → List Bool → List Byte
  | [], _ => []
  | g :: gs, conts =>
    let cont := conts.headD true
    g.map (fun p => joinBit7 true (low7 p)) ++ [carrierOf cont g] ++
      (if gs ≠ [] ∧ cont = false then [syncByte] else []) ++ asmGroups gs conts.tail

/-- The bytes of `DCDFRAME P, in, conts` after the sync byte (R148). -/
def asmDcdFrameBody (gs : List (List Byte)) (inGroups : Bits7) (conts : List Bool) : List Byte :=
  joinBit7 true (BitVec.ofNat 7 gs.length) :: joinBit7 true inGroups :: asmGroups gs conts

/-- `DCDFRAME P, in, conts` (R148). -/
def asmDcdFrame (gs : List (List Byte)) (inGroups : Bits7) (conts : List Bool) : List Byte :=
  syncByte :: asmDcdFrameBody gs inGroups conts

/-- `DCDREPLY P`, the same without the two header bytes (R148). The spec gives it no operand for its
carriers' continuation flags; the model takes `conts`, as for `DCDFRAME`, and every flag is set where
`conts` is empty. DESIGN CHOICE, safe: log entry 16. -/
def asmDcdReply (gs : List (List Byte)) (conts : List Bool) : List Byte :=
  syncByte :: asmGroups gs conts

end Sys2Proof.Machine
end

