-- ==== Sys2Proof/Machine/Log.lean ====
section
/-! DEFINITION. The one log rendering that the spec fixes (60_exceptions.md R356). Every other
rendering, and the timestamps, are the host's (00_scope.md R8). -/

namespace Sys2Proof.Machine

/-- The decimal digits of `n`, at most `fuel` of them. -/
def decimal : Nat → Nat → List Char
  | 0, _ => []
  | fuel + 1, n =>
    if n < 10 then [Char.ofNat (48 + n)] else decimal fuel (n / 10) ++ [Char.ofNat (48 + n % 10)]

/-- `%d` of a value below 100000. -/
def fmtD (n : Nat) : List Char := decimal 5 n

/-- `%03d`. -/
def fmt03D (n : Nat) : List Char :=
  List.replicate (3 - (fmtD n).length) '0' ++ fmtD n

/-- `tk %03d side %d sec %03d size %d` for an MfmAddressMark; no other event has a fixed text (R356). -/
def Event.logLine : Event → Option (List Char)
  | .mfmAddressMark _ t h s z =>
    some (['t', 'k', ' '] ++ fmt03D t.toNat ++ [' ', 's', 'i', 'd', 'e', ' '] ++ fmtD h.toNat ++
      [' ', 's', 'e', 'c', ' '] ++ fmt03D s.toNat ++ [' ', 's', 'i', 'z', 'e', ' '] ++ fmtD z.toNat)
  | .skip .. => none
  | .truncated .. => none
  | .invalidSymbol .. => none
  | .denibError .. => none
  | .checksumMismatch .. => none
  | .sectorMismatch .. => none
  | .crcMismatch .. => none
  | .gcrAddressMark .. => none
  | .mfmIndexMark .. => none
  | .recordAccepted .. => none
  | .dcdSync .. => none
  | .dcdGaveUp .. => none
  | .dcdFrameInvalid .. => none
  | .desync .. => none

end Sys2Proof.Machine
end

