-- ==== Sys2Proof/Safety.lean ====
section
/-! DEFINITION. What a safe run is, in the terms the statements use: the sequencer's, the framer's, the
DCD decoders' and the outputs' invariants, and what a failed candidate leaves. -/

namespace Sys2Proof.Machine

/-- Every word read so far had a meaning. No property is to be derived of a run of which this is false
(R44, R361). -/
def State.unrefused (s : State) : Bool := s.refused.isNone

/-! ## The sequencer -/

/-- The sites of each mode (R32). -/
def Site.fits : Mode → Site → Bool
  | .dcd, .dcd => true
  | .gcr, .search => true
  | .gcr, .gcrAddr => true
  | .gcr, .gcrData => true
  | .mfm, .search => true
  | .mfm, .mfmAddr => true
  | .mfm, .mfmData => true
  | _, _ => false

/-- The signature that brought the sequencer to a record site (R32, R120). -/
def Site.signature : Site → List Byte
  | .search => []
  | .gcrAddr => sigGcrAddr
  | .gcrData => sigGcrData
  | .mfmAddr => sigMfmAddr
  | .mfmData => sigMfmData
  | .dcd => []

/-- Between steps: the site is one of the mode's, a read is pending (R157(a), (c)), and a record site's
candidate begins with its signature (R158, R159). -/
structure SequencerInv (s : State) : Prop where
  fits    : s.site.fits s.mode = true
  waiting : s.waiting = true
  front   : (s.win.buf.map Entry.byte).take s.site.signature.length = s.site.signature

/-! ## The framer -/

/-- The counters stay within their widths, and no transaction opens in MFM mode (R33, R185). -/
structure FramerInv (s : State) : Prop where
  nextTxn : s.fr.nextTxn < 2 ^ s.cfg.txnBits
  txn     : s.fr.txn < 2 ^ s.cfg.txnBits
  off     : s.fr.off < 2 ^ s.cfg.offBits
  mfm     : s.mode = .mfm → s.fr.txn = 0 ∧ s.fr.nextTxn = 0

/-! ## The DCD decoders -/

/-- The decoder is in the middle of a frame's groups. -/
def Phase.inGroups : Phase → Bool
  | .readingPayload => true
  | .awaitingCarrier => true
  | .holdoff => true
  | .seekingSync => false
  | .readingHeader0 => false
  | .readingHeader1 => false
  | .gaveUp => false

/-- The phases before a frame's groups. -/
def Phase.beforeGroups : Phase → Bool
  | .seekingSync => true
  | .readingHeader0 => true
  | .readingHeader1 => true
  | .readingPayload => false
  | .awaitingCarrier => false
  | .holdoff => false
  | .gaveUp => false

/-- A legal DCD decoder (R39, R40): sizes within bounds, whole groups assembled and fewer than the
frame has while it is in its groups, a body that fits the phase, no seed of 0, and a sync byte seen
once the decoder has left SeekingSync. -/
structure DcdInv (d : DcdDecoder) : Prop where
  payload  : d.payload.length ≤ 889
  groups   : d.payload.length % 7 = 0
  progress : d.phase.inGroups = true → d.payload.length < 7 * d.outGroups.toNat
  empty    : d.phase.beforeGroups = true → d.payload = []
  body     : match d.phase with
    | .readingPayload => d.body.length < 7
    | .awaitingCarrier => d.body.length = 7
    | .seekingSync | .readingHeader0 | .readingHeader1 | .holdoff | .gaveUp => d.body = []
  seed     : d.seed ≠ some 0
  sync     : d.phase ≠ .seekingSync → d.syncProv.isSome = true
  fresh    : d.fresh = true → d.phase = .seekingSync

/-- Both decoders of the link are legal. -/
def LinkInv (s : State) : Prop := DcdInv s.h2p ∧ DcdInv s.p2h

/-! ## The outputs -/

/-- A record that the block may emit (R140): the payload's length and validity, the direction and the
geometry that its kind has. -/
def Record.sound (r : Record) : Prop :=
  r.seq.isSome = true ∧ r.off.isSome = true ∧
  match r.kind with
  | .gcrAddr => False
  | .gcrData => r.payload.length = 524 ∧ ∃ g, r.geom = .gcr g
  | .mfmAddr => False
  | .mfmData => r.payload.length = 512 ∧ ∀ g, r.geom ≠ .gcr g
  | .dcdH2P => r.payload.length % 7 = 0 ∧ r.payload.length ≤ 889 ∧
      validPayload .h2p r.payload = true ∧ r.dir = .link .h2p ∧ r.geom = .none
  | .dcdP2H => r.payload.length % 7 = 0 ∧ r.payload.length ≤ 889 ∧
      validPayload .p2h r.payload = true ∧ r.dir = .link .p2h ∧ r.geom = .none

/-- What a RecordAccepted event says of its record (R351). -/
def Event.accepted? : Event → Option (Kind × Nat × Geom)
  | .recordAccepted _ kind length geom => some (kind, length, geom)
  | _ => none

/-- What a record says to its RecordAccepted event (R351). -/
def Record.summary (r : Record) : Kind × Nat × Geom := (r.kind, r.payload.length, r.geom)

/-- Every record is sound, and the RecordAccepted events are the records' own, in order (R140, R351). -/
structure OutputsInv (s : State) : Prop where
  sound    : ∀ r ∈ s.records, r.sound
  accepted : s.events.filterMap Event.accepted? = s.records.map Record.summary

/-! ## Terms of the statements -/

/-- A state after a failed candidate at a record site (R362): one event, one byte gone from the window,
and the sequencer at `Search`. -/
def afterFailure (e : Event) (s : State) : State :=
  { s with
    site := .search
    win := ⟨s.win.buf.tail, if s.win.buf.tail = [] then false else s.win.eos⟩
    trace := s.trace ++ [.event e] }

/-- A window with its `n` oldest entries dropped (R193, R194). -/
def Window.dropped (w : Window) (n : Nat) : Window :=
  ⟨w.buf.drop n, if w.buf.length ≤ n then false else w.eos⟩

/-- The provenance of the oldest byte in the window (R190). -/
def State.frontProv (s : State) : Option Prov := s.win.buf.head?.map Entry.prov

/-- The result of a feed is a valid frame (R211). -/
def FeedResult.isValid : FeedResult → Bool
  | .valid .. => true
  | .hopeful => false
  | .gaveUp => false
  | .invalid => false

/-- Fed these bytes one after another on its own, the decoder completes a valid frame at one of them (R211,
R237). The provenance of a byte has no part in that, so none is given. -/
def yieldsFrame (cfg : Config) (dir : LinkDir) (d : DcdDecoder) : List Byte → Bool
  | [] => false
  | b :: bs =>
    (dcdFeed cfg dir d b none).res.isValid || yieldsFrame cfg dir (dcdFeed cfg dir d b none).dec bs

/-- How many iterations of the sequencer a record at the front of the window takes at its site: one for
each byte of a DCD frame, one for every other record (R156, R158 to R160). -/
def recordWork : Instr → Nat
  | .dcdFrame body => 1 + body.length
  | .dcdReply _ body => 1 + body.length
  | .idle => 1
  | .byte _ => 1
  | .reset _ => 1
  | .stop => 1
  | .gcrAddressMark _ => 1
  | .gcrDataMark _ => 1
  | .mfmIndexMark => 1
  | .mfmAddressMark _ => 1
  | .mfmDataMark _ => 1

end Sys2Proof.Machine
end

