-- ==== Sys2Proof/Certificates/Slice0/Obligations.lean ====
section
/-! DEFINITION. The statements about the model, one `def Obligations.<Name> : Prop` each, listed with
their rules in OBLIGATIONS.json. A statement about an instruction holds in every state that its
hypotheses admit, reached or not. -/

open Sys2Proof Sys2Proof.Machine

/-! ## Encodings -/

/-- R111 to R114: each input word of the four encodings is its instruction, and `mm = 11` is
reserved. -/
def Obligations.InputWordsDecodeByKind : Prop :=
  ∀ w : InputWord,
    (w &&& 0x3FF = 0x000 → decodeWord w = .ok .idle) ∧
    (w &&& 0x300 = 0x100 → decodeWord w = .ok (.byte (w.extractLsb' 0 8))) ∧
    (w &&& 0x3FC = 0x200 →
      (w.extractLsb' 0 2 = 0b00#2 → decodeWord w = .ok (.reset .dcd)) ∧
      (w.extractLsb' 0 2 = 0b01#2 → decodeWord w = .ok (.reset .gcr)) ∧
      (w.extractLsb' 0 2 = 0b10#2 → decodeWord w = .ok (.reset .mfm)) ∧
      (w.extractLsb' 0 2 = 0b11#2 → decodeWord w = .error .reservedMode)) ∧
    (w &&& 0x3FF = 0x300 → decodeWord w = .ok .stop)

/-- R115: the reserved words, and that refusing one (R150) changes nothing but `refused`, which keeps
its first reason. -/
def Obligations.ReservedWordsAreRefused : Prop :=
  (∀ w : InputWord,
    ((w.extractLsb' 8 2 = 0b00#2 ∨ w.extractLsb' 8 2 = 0b11#2) ∧ w.extractLsb' 0 8 ≠ 0#8 →
      decodeWord w = .error .reservedBits) ∧
    (w.extractLsb' 8 2 = 0b10#2 ∧ w.extractLsb' 2 6 ≠ 0#6 → decodeWord w = .error .reservedBits) ∧
    (w.extractLsb' 8 2 = 0b10#2 ∧ w.extractLsb' 2 6 = 0#6 ∧ w.extractLsb' 0 2 = 0b11#2 →
      decodeWord w = .error .reservedMode)) ∧
  (∀ s : State,
    refuseReserved .reservedBits s = { s with refused := some (s.refused.getD .reservedBits) } ∧
    refuseReserved .reservedMode s = { s with refused := some (s.refused.getD .reservedMode) })

/-- The signatures of R120, as bytes, are the record instructions, and the sync byte `AA` is a frame
or, for a decoder with a seed, a reply (R130, R133). -/
def Obligations.SignaturesDecodeToRecords : Prop :=
  decodeRecord .gcr [0xD5, 0xAA, 0x96, 0x9A, 0x9B, 0xD7, 0xD9, 0x9A, 0xDE, 0xAA] =
    some (.gcrAddressMark [0x9A, 0x9B, 0xD7, 0xD9, 0x9A, 0xDE, 0xAA], []) ∧
  decodeRecord .gcr [0xD5, 0xAA, 0xAD, 0x9B, 0x96] = some (.gcrDataMark [0x9B, 0x96], []) ∧
  decodeRecord .mfm [0xC2, 0xC2, 0xC2, 0xFC, 0x4E] = some (.mfmIndexMark, [0x4E]) ∧
  decodeRecord .mfm [0xA1, 0xA1, 0xA1, 0xFE, 0x05, 0x00, 0x03, 0x02, 0x10, 0x48, 0x4E] =
    some (.mfmAddressMark [0x05, 0x00, 0x03, 0x02, 0x10, 0x48], [0x4E]) ∧
  decodeRecord .mfm [0xA1, 0xA1, 0xA1, 0xFB, 0x00] = some (.mfmDataMark [0x00], []) ∧
  decodeRecord (.dcd none)
      [0xAA, 0x81, 0x80, 0x81, 0x80, 0x80, 0x80, 0x80, 0x80, 0xFF, 0xC0, 0x55] =
    some (.dcdFrame [0x81, 0x80, 0x81, 0x80, 0x80, 0x80, 0x80, 0x80, 0xFF, 0xC0], [0x55]) ∧
  decodeRecord (.dcd (some 1)) [0xAA, 0x81, 0x80, 0x80, 0x80, 0x80, 0x80, 0xFF, 0x81, 0x55] =
    some (.dcdReply 1 [0x81, 0x80, 0x80, 0x80, 0x80, 0x80, 0xFF, 0x81], [0x55]) ∧
  decodeRecord .gcr [0xD5, 0xAA, 0x97] = none ∧
  decodeRecord .mfm [0xA1, 0xA1, 0xA1, 0xFC] = none ∧
  decodeRecord (.dcd none) [0x55] = none

/-- Headline: decoding an instruction's encoding gives the instruction back, for every well-formed
instruction with every operand. -/
def Obligations.DecodeUndoesEncode : Prop :=
  ∀ i : Instr, i.wf = true → decode (encode i) = .ok i

/-- A record that has all its bytes is decoded the same whatever bytes follow it, and they are left. -/
def Obligations.CompleteRecordsEndWhereTheyEnd : Prop :=
  ∀ (i : Instr) (ctx : RecordContext) (bs rest : List Byte),
    i.wf = true → i.complete = true → encode i = .record ctx bs →
      decodeRecord ctx (bs ++ rest) = some (i, rest)

/-- Each code has one meaning: a word that decodes is the encoding of its instruction, and the bytes
of a record that decodes are its encoding followed by the bytes left. -/
def Obligations.EncodeUndoesDecode : Prop :=
  (∀ (w : InputWord) (i : Instr), decodeWord w = .ok i → encode i = .word w) ∧
  (∀ (ctx : RecordContext) (bs rest : List Byte) (i : Instr),
    decodeRecord ctx bs = some (i, rest) →
      i.wf = true ∧ ∃ ctx' bs', encode i = .record ctx' bs' ∧ bs = bs' ++ rest)

/-! ## Steps -/

/-- A step of a waiting block reads one word and runs its instruction, or refuses a reserved word
whatever the run state (R150, R115). Where the input port is empty the block holds. That the host's
words stand in a list is the model's choice, log entry 1. -/
def Obligations.StepRunsTheDecodedWord : Prop :=
  ∀ s : State, s.busy = false →
    (s.input = [] → step s = .next s) ∧
    (∀ (w : InputWord) (ws : List InputWord) (i : Instr), s.input = w :: ws → decodeWord w = .ok i →
      step s = exec i { s with input := ws }) ∧
    (∀ (w : InputWord) (ws : List InputWord) (r : ReservedWord), s.input = w :: ws →
      decodeWord w = .error r → step s = .next (refuseReserved r { s with input := ws }))

/-- A step of a block whose pending PEEK the window already serves reads no word: it runs the record
that stands at the front of the window, or else the site's work (R190). No run reaches such a state
(R157): log entry 10. A record instruction is the sequencer's own work on the bytes it stands for: as
many iterations of `act` as the record takes (R156, R158 to R160). -/
def Obligations.RecordInstructionIsSequencerWork : Prop :=
  (∀ s : State, s.busy = true →
    (∀ i : Instr, fetchRecord s = some i → step s = exec i s) ∧
    (fetchRecord s = none → step s = .next (act s))) ∧
  (∀ (s : State) (i : Instr), fetchRecord s = some i → exec i s = .next (act^[recordWork i] s))

/-- A row of the opcode table that is placed is run by the next step (the model's loading, log entries
9 and 10). -/
def Obligations.PlacedRowRunsNext : Prop :=
  (∀ (s : State) (w : Nat) (i : Instr), decodeTableWord 16 w = some i →
    step (s.withFetchWord 16 w) =
      exec i (if s.busy = true then { s with win := ⟨[], false⟩ } else s)) ∧
  (∀ (s : State) (nbits w : Nat) (i : Instr), nbits = 8 ∨ nbits = 24 ∨ nbits = 32 →
    decodeTableWord nbits w = some i →
      step (s.withFetchWord nbits w) = exec i (s.withFetchWord nbits w))

/-- R380: the power-on state, and that none of the unspecified fields can be seen: two unconfigured
blocks that agree on the specified fields, the configuration and the input port agree on them after
every step, and wholly once a RESET is taken. -/
def Obligations.PowerOnValuesAreUnobservable : Prop :=
  (State.reset.run = .unconfigured ∧ State.reset.refused = none ∧ State.reset.capture = [] ∧
    State.reset.events = [] ∧ State.reset.records = []) ∧
  ∀ s t : State, s.run = .unconfigured → t.run = .unconfigured → s.cfg = t.cfg →
    s.trace = t.trace → s.refused = t.refused → s.input = t.input →
      ∃ s' t', step s = .next s' ∧ step t = .next t' ∧
        s'.run = t'.run ∧ s'.cfg = t'.cfg ∧ s'.trace = t'.trace ∧ s'.refused = t'.refused ∧
        s'.input = t'.input ∧ (s'.run ≠ .unconfigured → s' = t')

/-! ## The input words -/

/-- R151: RESET starts a session from every run state, writing every field of R47 and nothing else.
The reserved mode is no RESET. -/
def Obligations.ResetStartsASession : Prop :=
  (∀ (m : Mode) (s : State),
    exec (.reset m) s = .next
      { s with
        run := .running
        mode := m
        site := match m with
          | .dcd => .dcd
          | .gcr => .search
          | .mfm => .search
        fr := ⟨0, 0, false, 0, 0⟩
        win := ⟨[], false⟩
        ggeom := none
        mgeom := none
        h2p := ⟨.seekingSync, true, none, 0, none, [], [], none⟩
        p2h := ⟨.seekingSync, true, none, 0, none, [], [], none⟩ }) ∧
  decodeWord 0x203 = .error .reservedMode

/-- R152: before the first RESET, BYTE, IDLE and STOP are refused and nothing else changes. -/
def Obligations.WordsBeforeResetAreRefused : Prop :=
  ∀ (s : State) (i : Instr), s.run = .unconfigured → (i = .idle ∨ i = .stop ∨ ∃ b, i = .byte b) →
    exec i s = .next { s with refused := some (s.refused.getD .unconfigured) }

/-- R153: STOP of a running session writes `run` and emits nothing, and after it BYTE, IDLE and STOP
are refused with AfterStop. -/
def Obligations.StopEndsTheSession : Prop :=
  (∀ s : State, s.run = .running → exec .stop s = .next { s with run := .stopped }) ∧
  (∀ (s : State) (i : Instr), s.run = .stopped → (i = .idle ∨ i = .stop ∨ ∃ b, i = .byte b) →
    exec i s = .next { s with refused := some (s.refused.getD .afterStop) })

/-- R155: BYTE tags the byte, emits its capture entry, appends it to the window, and resumes the
sequencer exactly when the pending PEEK is complete. -/
def Obligations.ByteReadsAndMayResume : Prop :=
  ∀ (s : State) (b : Byte), s.run = .running →
    ∃ s1 : State,
      s1 = { s with
        fr := (tagByte s.cfg s.mode s.fr b).2
        trace := s.trace ++ [.capture ⟨(tagByte s.cfg s.mode s.fr b).1.txn,
          (tagByte s.cfg s.mode s.fr b).1.dir, b⟩]
        win := ⟨s.win.buf ++ [⟨b, (tagByte s.cfg s.mode s.fr b).1⟩], s.win.eos⟩ } ∧
      (s.win.buf.length + 1 < want s.mode s.site → exec (.byte b) s = .next s1) ∧
      (want s.mode s.site ≤ s.win.buf.length + 1 → exec (.byte b) s = .next (resume s1))

/-- R154: IDLE of a running session closes the framer's transaction in DCD mode only (R184), marks end of
stream and resumes; and that always drains the window: it ends empty with end-of-stream clear (R191,
R194). No capture is emitted and no word but its own is read. -/
def Obligations.IdleDrainsTheWindow : Prop :=
  ∀ s : State, s.run = .running →
    ∃ t : State, exec .idle s = .next t ∧
      t = resume { s with
        fr := { s.fr with inTxn := s.fr.inTxn && decide (s.mode ≠ .dcd) }
        win := ⟨s.win.buf, true⟩ } ∧
      t.win = ⟨[], false⟩ ∧ t.run = .running ∧ t.mode = s.mode ∧
      t.fr = { s.fr with inTxn := s.fr.inTxn && decide (s.mode ≠ .dcd) } ∧
      t.capture = s.capture ∧ t.input = s.input ∧ t.cfg = s.cfg ∧ t.refused = s.refused

/-- IDLE on an idle bus changes nothing but, in DCD mode, closing the open transaction (R154, R236):
no event, and no decoder or geometry register changes. -/
def Obligations.IdleOnAnIdleBusDoesNothing : Prop :=
  ∀ s : State, s.run = .running → s.win = ⟨[], false⟩ →
    ((s.mode = .dcd ∧ s.site = .dcd) ∨ (s.mode ≠ .dcd ∧ s.site = .search)) →
      exec .idle s = .next { s with fr := { s.fr with inTxn := s.fr.inTxn && decide (s.mode ≠ .dcd) } }

/-- An IDLE while a record site waits truncates its candidate: the first event is Truncated, with the
provenance of the candidate's first byte and the number of its bytes (R390, R267, R330). -/
def Obligations.IdleTruncatesAWaitingRecord : Prop :=
  ∀ (s : State) (kind : Kind), s.run = .running → s.win.buf ≠ [] →
    s.win.buf.length < want s.mode s.site →
    ((s.site = .gcrAddr ∧ kind = .gcrAddr) ∨ (s.site = .gcrData ∧ kind = .gcrData) ∨
      (s.site = .mfmAddr ∧ kind = .mfmAddr) ∨ (s.site = .mfmData ∧ kind = .mfmData)) →
      ∃ (t : State) (outs : List Output), exec .idle s = .next t ∧
        t.trace = s.trace ++ .event (.truncated s.frontProv kind s.win.buf.length) :: outs

/-! ## The framer -/

/-- R181 to R183 and R185: the tag of a byte and the framer after it. In DCD mode a byte opens a
transaction if none is open, and takes no direction; in GCR mode it also opens one if its bit 7
differs from the last direction, and is tagged with its bit 7; in MFM mode it belongs to
transaction 0. -/
def Obligations.FramerTagsByMode : Prop :=
  ∀ (cfg : Config) (fr : Framer) (b : Byte),
    (fr.inTxn = false → tagByte cfg .dcd fr b =
      (⟨fr.nextTxn, none, 0⟩,
        { fr with txn := fr.nextTxn, nextTxn := (fr.nextTxn + 1) % 2 ^ cfg.txnBits, inTxn := true,
                  off := 1 % 2 ^ cfg.offBits })) ∧
    (fr.inTxn = true → tagByte cfg .dcd fr b =
      (⟨fr.txn, none, fr.off⟩, { fr with off := (fr.off + 1) % 2 ^ cfg.offBits })) ∧
    ((fr.inTxn = false ∨ b.extractLsb' 7 1 ≠ fr.lastDir) → tagByte cfg .gcr fr b =
      (⟨fr.nextTxn, some (b.extractLsb' 7 1), 0⟩,
        { fr with txn := fr.nextTxn, nextTxn := (fr.nextTxn + 1) % 2 ^ cfg.txnBits, inTxn := true,
                  off := 1 % 2 ^ cfg.offBits, lastDir := b.extractLsb' 7 1 })) ∧
    ((fr.inTxn = true ∧ b.extractLsb' 7 1 = fr.lastDir) → tagByte cfg .gcr fr b =
      (⟨fr.txn, some (b.extractLsb' 7 1), fr.off⟩,
        { fr with off := (fr.off + 1) % 2 ^ cfg.offBits })) ∧
    tagByte cfg .mfm fr b = (⟨0, none, fr.off⟩, { fr with off := (fr.off + 1) % 2 ^ cfg.offBits })

/-! ## The sequencer -/

/-- R156 and R157(b): a read is pending exactly when the window is shorter than the site wants and no
end of stream is marked; RESUME is one or more iterations, at most `2·|buf| + 2`, and ends at the
first one after which a read is pending, from every state. -/
def Obligations.ResumeEndsAtAReadPoint : Prop :=
  (want .gcr .search = 3 ∧ want .mfm .search = 4 ∧ want .gcr .gcrAddr = 10 ∧
    want .gcr .gcrData = 709 ∧ want .mfm .mfmAddr = 10 ∧ want .mfm .mfmData = 518 ∧
    want .dcd .dcd = 1) ∧
  (∀ s : State, s.waiting = true ↔ s.win.buf.length < want s.mode s.site ∧ s.win.eos = false) ∧
  (∀ s : State, ∃ k : Nat, 0 < k ∧ k ≤ 2 * s.win.buf.length + 2 ∧ resume s = act^[k] s ∧
    (act^[k] s).waiting = true ∧ ∀ j : Nat, 0 < j → j < k → (act^[j] s).waiting = false)

/-- R193 and R194: POP drops up to `n` oldest entries, clears `eos` whenever it leaves the window
empty, and changes nothing else. -/
def Obligations.PopDropsAndClearsEos : Prop :=
  ∀ (n : Nat) (s : State), pop n s =
    { s with win :=
        { buf := s.win.buf.drop n
          eos := if s.win.buf.length ≤ n then false else s.win.eos } }

/-- R158: the signature search of GCR mode (R161, R195), and the two record sites. A signature moves
the sequencer to its record site without a POP, and every other window front is dropped one byte
at a time, with its Skip. -/
def Obligations.GcrSequencerActs : Prop :=
  (∀ (s : State) (sig : List Byte), s.mode = .gcr → s.site = .search →
    sig = (s.win.buf.take 3).map Entry.byte →
    (sig = [0xD5, 0xAA, 0x96] → act s = { s with site := .gcrAddr }) ∧
    (sig = [0xD5, 0xAA, 0xAD] → act s = { s with site := .gcrData }) ∧
    (sig ≠ [0xD5, 0xAA, 0x96] → sig ≠ [0xD5, 0xAA, 0xAD] →
      act s = { s with
        win := s.win.dropped 1
        trace := s.trace ++ (s.win.buf.take 1).map
          (fun e => .event (.skip (some e.prov) e.byte)) })) ∧
  (∀ s : State,
    (s.site = .gcrAddr → act s =
      { gcrAddrEval s.frontProv ((s.win.buf.take 10).map Entry.byte) s with site := .search }) ∧
    (s.site = .gcrData → act s =
      { gcrDataEval s.frontProv ((s.win.buf.take 709).map Entry.byte) s with site := .search }))

/-- R159: the signature search of MFM mode (R161, R195, R324), and the two record sites. -/
def Obligations.MfmSequencerActs : Prop :=
  (∀ (s : State) (sig : List Byte), s.mode = .mfm → s.site = .search →
    sig = (s.win.buf.take 4).map Entry.byte →
    (sig = [0xC2, 0xC2, 0xC2, 0xFC] →
      act s = { s with
        win := s.win.dropped 4
        trace := s.trace ++ [.event (.mfmIndexMark s.frontProv)] }) ∧
    (sig = [0xA1, 0xA1, 0xA1, 0xFE] → act s = { s with site := .mfmAddr }) ∧
    (sig = [0xA1, 0xA1, 0xA1, 0xFB] → act s = { s with site := .mfmData }) ∧
    (sig ≠ [0xC2, 0xC2, 0xC2, 0xFC] → sig ≠ [0xA1, 0xA1, 0xA1, 0xFE] →
      sig ≠ [0xA1, 0xA1, 0xA1, 0xFB] →
      act s = { s with
        win := s.win.dropped 1
        trace := s.trace ++ (s.win.buf.take 1).map
          (fun e => .event (.skip (some e.prov) e.byte)) })) ∧
  (∀ s : State,
    (s.site = .mfmAddr → act s =
      { mfmAddrEval s.frontProv ((s.win.buf.take 10).map Entry.byte) s with site := .search }) ∧
    (s.site = .mfmData → act s =
      { mfmDataEval s.frontProv ((s.win.buf.take 518).map Entry.byte) s with site := .search }))

/-! ## GCR -/

/-- R266 and R268 to R272: an address mark whose symbols are valid and whose checksum agrees writes
the geometry, emits its event and is popped whole, whatever its two trailer bytes (R289).
Otherwise it fails by the first of truncation, an INVALID symbol and a wrong checksum, and leaves
one event and one byte less (R362). -/
def Obligations.GcrAddressMarkIsAcceptedOrFails : Prop :=
  (∀ (s : State) (c0 c1 c2 c3 c4 x y : Byte) (n0 n1 n2 n3 n4 : Nibble),
    lookup s.cfg c0 = some n0 → lookup s.cfg c1 = some n1 → lookup s.cfg c2 = some n2 →
    lookup s.cfg c3 = some n3 → lookup s.cfg c4 = some n4 → n0 ^^^ n1 ^^^ n2 ^^^ n3 = n4 →
      exec (.gcrAddressMark [c0, c1, c2, c3, c4, x, y]) s = .next
        { s with
          site := .search
          ggeom := some ⟨gcrTrack s.cfg n0 n2, n1, gcrSide s.cfg n0 n2, n3⟩
          win := s.win.dropped 10
          trace := s.trace ++ [.event (.gcrAddressMark s.frontProv (gcrTrack s.cfg n0 n2) n1
            (gcrSide s.cfg n0 n2) n3)] }) ∧
  (∀ s : State,
    (∀ body : List Byte, body.length < 7 →
      exec (.gcrAddressMark body) s =
        .next (afterFailure (.truncated s.frontProv .gcrAddr (3 + body.length)) s)) ∧
    (∀ c0 c1 c2 c3 c4 x y : Byte,
      ([c0, c1, c2, c3, c4].filter (fun c => (lookup s.cfg c).isNone) ≠ [] →
        exec (.gcrAddressMark [c0, c1, c2, c3, c4, x, y]) s =
          .next (afterFailure (.invalidSymbol s.frontProv .gcrAddr
            ([c0, c1, c2, c3, c4].filter (fun c => (lookup s.cfg c).isNone))) s)) ∧
      (∀ n0 n1 n2 n3 n4 : Nibble, lookup s.cfg c0 = some n0 → lookup s.cfg c1 = some n1 →
        lookup s.cfg c2 = some n2 → lookup s.cfg c3 = some n3 → lookup s.cfg c4 = some n4 →
        n0 ^^^ n1 ^^^ n2 ^^^ n3 ≠ n4 →
          exec (.gcrAddressMark [c0, c1, c2, c3, c4, x, y]) s =
            .next (afterFailure (.checksumMismatch s.frontProv .gcrAddr
              (.nibble (n0 ^^^ n1 ^^^ n2 ^^^ n3)) (.nibble n4)) s))))

/-- R263 and R270, with R262 and R141: a symbol's low 7 bits index the table, whatever bit 7 is; with
the default table each value's symbol is looked up to the value, and exactly 64 of the 128
entries are INVALID, those of `D5` and `AA` among them; and the default track and side layout. -/
def Obligations.DefaultGcrParameters : Prop :=
  (∀ (cfg : Config) (b : Byte),
    lookup cfg b = cfg.nibTable.getD (b.extractLsb' 0 7).toNat none ∧
    lookup cfg (b &&& 0x7F) = lookup cfg b) ∧
  (∀ cfg : Config, cfg.nibTable = defaultNibTable →
    (∀ v : Nibble, lookup cfg (symbolOf v) = some v) ∧
    ((List.range 128).filter (fun i => (lookup cfg (BitVec.ofNat 8 i)).isNone)).length = 64 ∧
    lookup cfg 0xD5 = none ∧ lookup cfg 0xAA = none) ∧
  (∀ (cfg : Config) (n0 n2 : Nibble), cfg.trackSide = defaultTrackSide →
    gcrTrack cfg n0 n2 = n2.extractLsb' 0 1 ++ n0 ∧ gcrSide cfg n0 n2 = n2.extractLsb' 5 1)

/-- R277 to R280: the bits of a run's outputs, in plain slices; the denibblizer fails exactly when its
input ends inside a run whose hi value has a bit set among those of the missing outputs; 699 values
give 524 bytes, and 4 values give 3 bytes and never fail. -/
def Obligations.DenibRunsAndErrors : Prop :=
  (∀ (hi a b c : Nibble) (rest : List Nibble),
    let x := hi.extractLsb' 4 2 ++ a
    let y := hi.extractLsb' 2 2 ++ b
    let z := hi.extractLsb' 0 2 ++ c
    (denib []).1 = [] ∧ (denib [hi]).1 = [] ∧ (denib [hi, a]).1 = [x] ∧
    (denib [hi, a, b]).1 = [x, y] ∧
    (denib (hi :: a :: b :: c :: rest)).1 = x :: y :: z :: (denib rest).1) ∧
  (∀ (runs : List (Nibble × Nibble × Nibble × Nibble)) (hi a b : Nibble),
    let full : List Nibble := runs.flatMap (fun r => [r.1, r.2.1, r.2.2.1, r.2.2.2])
    (denib full).2 = none ∧
    (denib (full ++ [hi])).2 =
      (if hi = 0 then none else some (hi, 0)) ∧
    (denib (full ++ [hi, a])).2 =
      (if hi &&& 0x0F = 0 then none else some (hi &&& 0x0F, 1)) ∧
    (denib (full ++ [hi, a, b])).2 =
      (if hi &&& 0x03 = 0 then none else some (hi &&& 0x03, 2))) ∧
  (∀ v : List Nibble, v.length = 699 → (denib v).1.length = 524) ∧
  (∀ v : List Nibble, v.length = 4 → (denib v).1.length = 3 ∧ (denib v).2 = none)

/-- The source's property 2 (S2): DENIB undoes PACK of R147. -/
def Obligations.DenibUndoesPack : Prop :=
  ∀ y : List Byte, denib (pack y) = (y, none)

/-- The source's property 1 (S1): CKSUM undoes SCRAMBLE of R147 and computes the same checksum, for
both additions. -/
def Obligations.CksumUndoesScramble : Prop :=
  ∀ (m : GcrAdd) (p : List Byte), cksum m (scramble m p).1 = (p, (scramble m p).2)

/-- R281 to R284: the checksum engine starts from zero accumulators, and its group is, for both
additions, in plain arithmetic; a short final group leaves out the steps of the bytes it has not. -/
def Obligations.CksumGroupArithmetic : Prop :=
  (∀ (m : GcrAdd) (d : List Byte), cksum m d = cksumFrom m ⟨0, 0, 0⟩ d) ∧
  (∀ (m : GcrAdd) (acc : Acc), cksumFrom m acc [] = ([], acc)) ∧
  (∀ (a b c x y : Byte),
    let c1 := c.rotateLeft 1
    let x1 := x ^^^ c1
    let a1 := a + x1
    let y1 := y ^^^ a1
    let b1 := b + y1
    cksumFrom .mod256 ⟨a, b, c⟩ [x] = ([x1], ⟨a1, b, c1⟩) ∧
    cksumFrom .mod256 ⟨a, b, c⟩ [x, y] = ([x1, y1], ⟨a1, b1, c1⟩) ∧
    ∀ (z : Byte) (rest : List Byte),
      let z1 := z ^^^ b1
      cksumFrom .mod256 ⟨a, b, c⟩ (x :: y :: z :: rest) =
        (x1 :: y1 :: z1 :: (cksumFrom .mod256 ⟨a1, b1, c1 + z1⟩ rest).1,
          (cksumFrom .mod256 ⟨a1, b1, c1 + z1⟩ rest).2)) ∧
  (∀ (a b c x y : Byte),
    let c1 := c.rotateLeft 1
    let x1 := x ^^^ c1
    let t1 := a.toNat + x1.toNat + c.toNat / 128
    let a1 := BitVec.ofNat 8 t1
    let y1 := y ^^^ a1
    let t2 := b.toNat + y1.toNat + t1 / 256
    let b1 := BitVec.ofNat 8 t2
    cksumFrom .chained ⟨a, b, c⟩ [x] = ([x1], ⟨a1, b, c1⟩) ∧
    cksumFrom .chained ⟨a, b, c⟩ [x, y] = ([x1, y1], ⟨a1, b1, c1⟩) ∧
    ∀ (z : Byte) (rest : List Byte),
      let z1 := z ^^^ b1
      let c2 := BitVec.ofNat 8 (c1.toNat + z1.toNat + t2 / 256)
      cksumFrom .chained ⟨a, b, c⟩ (x :: y :: z :: rest) =
        (x1 :: y1 :: z1 :: (cksumFrom .chained ⟨a1, b1, c2⟩ rest).1,
          (cksumFrom .chained ⟨a1, b1, c2⟩ rest).2))

/-- R275, R276 and R285 to R288: a data mark whose checks all pass is emitted as one record with the
decoded payload and the current geometry, and popped whole. Otherwise it fails by the first check, in
the order of R286, that does not hold, and leaves one event and one byte less (R362). -/
def Obligations.GcrDataMarkIsDeliveredOrFails : Prop :=
  (∀ (s : State) (body : List Byte) (sec : Nibble) (g : GcrGeom) (v : List Nibble) (d : List Byte)
    (a : Acc),
    body.length = 706 → lookup s.cfg (byteAt body 0) = some sec →
    v.length = 703 → (slice body 1 703).map (lookup s.cfg) = v.map some →
    (denib (v.take 699)).2 = none → cksum s.cfg.gcrAdd (denib (v.take 699)).1 = (d, a) →
    (denib (v.drop 699)).1 = [a.a, a.b, a.c] → s.ggeom = some g → g.sector = sec →
      d.length = 524 ∧
      exec (.gcrDataMark body) s = .next
        { s with
          site := .search
          win := s.win.dropped 709
          trace := s.trace ++
            [.record (mkRecord .gcrData s.frontProv (.gcr g) d),
             .event (.recordAccepted s.frontProv .gcrData 524 (.gcr g))] }) ∧
  (∀ (s : State) (body : List Byte),
    (body.length < 706 → exec (.gcrDataMark body) s =
      .next (afterFailure (.truncated s.frontProv .gcrData (3 + body.length)) s)) ∧
    (body.length = 706 →
      (lookup s.cfg (byteAt body 0) = none → exec (.gcrDataMark body) s =
        .next (afterFailure (.invalidSymbol s.frontProv .gcrData [byteAt body 0]) s)) ∧
      (∀ sec : Nibble, lookup s.cfg (byteAt body 0) = some sec →
        ((slice body 1 703).filter (fun c => (lookup s.cfg c).isNone) ≠ [] →
          exec (.gcrDataMark body) s =
            .next (afterFailure (.invalidSymbol s.frontProv .gcrData
              ((slice body 1 703).filter (fun c => (lookup s.cfg c).isNone))) s)) ∧
        (∀ v : List Nibble, v.length = 703 → (slice body 1 703).map (lookup s.cfg) = v.map some →
          (∀ (pending : Nibble) (j : Nat), (denib (v.take 699)).2 = some (pending, j) →
            exec (.gcrDataMark body) s =
              .next (afterFailure (.denibError s.frontProv pending j) s)) ∧
          ((denib (v.take 699)).2 = none →
            ∀ (d : List Byte) (a : Acc) (t0 t1 t2 : Byte),
              cksum s.cfg.gcrAdd (denib (v.take 699)).1 = (d, a) →
              (denib (v.drop 699)).1 = [t0, t1, t2] →
              ((a.a, a.b, a.c) ≠ (t0, t1, t2) → exec (.gcrDataMark body) s =
                .next (afterFailure (.checksumMismatch s.frontProv .gcrData
                  (.triple a.a a.b a.c) (.triple t0 t1 t2)) s)) ∧
              ((a.a, a.b, a.c) = (t0, t1, t2) →
                (s.ggeom = none → exec (.gcrDataMark body) s =
                  .next (afterFailure (.sectorMismatch s.frontProv sec none) s)) ∧
                (∀ g : GcrGeom, s.ggeom = some g → g.sector ≠ sec → exec (.gcrDataMark body) s =
                  .next (afterFailure (.sectorMismatch s.frontProv sec (some g.sector)) s))))))))

/-- Headline (properties 1, 2 and 4; R147): under the default table and addition, the data mark that
GCRDATA builds for any 524-byte payload, met with its sector's geometry, delivers that payload. -/
def Obligations.GcrDataExpansionIsDelivered : Prop :=
  ∀ (s : State) (sector : Nibble) (p : List Byte) (g : GcrGeom),
    s.cfg.nibTable = defaultNibTable → s.cfg.gcrAdd = .mod256 → p.length = 524 →
    s.ggeom = some g → g.sector = sector →
      exec (.gcrDataMark (asmGcrDataBody sector p)) s = .next
        { s with
          site := .search
          win := s.win.dropped 709
          trace := s.trace ++
            [.record (mkRecord .gcrData s.frontProv (.gcr g) p),
             .event (.recordAccepted s.frontProv .gcrData 524 (.gcr g))] }

/-! ## MFM -/

/-- R321 and R322: the CRC engine in plain arithmetic, from `0xFFFF`. With it R323: a record's CRC is
zero exactly when its last two bytes are the CRC of the rest, high byte first; so the expansions
of R146 are valid. -/
def Obligations.CrcEngineAndResidue : Prop :=
  (∀ (c : Crc) (b : Byte), (crcStep c b).toNat =
    (fun x : Nat => if 0x8000 ≤ x then (2 * x % 0x10000) ^^^ 0x1021 else 2 * x)^[8]
      (c.toNat ^^^ (b.toNat * 256))) ∧
  (crc [] = 0xFFFF ∧ ∀ (r : List Byte) (b : Byte), crc (r ++ [b]) = crcStep (crc r) b) ∧
  (∀ (r : List Byte) (hi lo : Byte), crc (r ++ [hi, lo]) = 0 ↔ hi ++ lo = crc r) ∧
  (∀ r : List Byte, crc (withCrc r) = 0)

/-- The source's property 3 (R323): flipping any single bit of a valid record leaves a nonzero
register. -/
def Obligations.CrcSeesEverySingleBit : Prop :=
  ∀ (r : List Byte) (i k : Nat) (b : Byte), crc r = 0 → r[i]? = some b → k < 8 →
    crc (r.set i (b ^^^ (1#8 <<< k))) ≠ 0

/-- R324: an index mark emits its event and is popped; nothing else changes. -/
def Obligations.MfmIndexMarkIsReported : Prop :=
  ∀ s : State, exec .mfmIndexMark s = .next
    { s with
      site := .search
      win := s.win.dropped 4
      trace := s.trace ++ [.event (.mfmIndexMark s.frontProv)] }

/-- R325 and R327: a CRC-valid address mark writes the geometry, emits its event with the size
`sizeCode × 256`, and is popped whole; a truncated one and one whose CRC does not agree fail
(R329, R330, R362). -/
def Obligations.MfmAddressMarkIsAcceptedOrFails : Prop :=
  (∀ (s : State) (track side sector code c1 c0 : Byte),
    crc [0xA1, 0xA1, 0xA1, 0xFE, track, side, sector, code, c1, c0] = 0 →
      exec (.mfmAddressMark [track, side, sector, code, c1, c0]) s = .next
        { s with
          site := .search
          mgeom := some ⟨track, side, sector, code⟩
          win := s.win.dropped 10
          trace := s.trace ++ [.event (.mfmAddressMark s.frontProv track side sector
            (BitVec.ofNat 16 (code.toNat * 256)))] }) ∧
  (∀ s : State,
    (∀ body : List Byte, body.length < 6 → exec (.mfmAddressMark body) s =
      .next (afterFailure (.truncated s.frontProv .mfmAddr (4 + body.length)) s)) ∧
    (∀ track side sector code c1 c0 : Byte,
      crc [0xA1, 0xA1, 0xA1, 0xFE, track, side, sector, code, c1, c0] ≠ 0 →
        exec (.mfmAddressMark [track, side, sector, code, c1, c0]) s =
          .next (afterFailure (.crcMismatch s.frontProv .mfmAddr
            (crc [0xA1, 0xA1, 0xA1, 0xFE, track, side, sector, code]) (c1 ++ c0)) s)))

/-- R328, R329 and R330: a data mark is truncated, fails its CRC, or is delivered with the current MFM
geometry, which may be none. -/
def Obligations.MfmDataMarkIsDeliveredOrFails : Prop :=
  ∀ s : State,
    (∀ body : List Byte, body.length < 514 → exec (.mfmDataMark body) s =
      .next (afterFailure (.truncated s.frontProv .mfmData (4 + body.length)) s)) ∧
    (∀ (p : List Byte) (c1 c0 : Byte), p.length = 512 →
      (crc ([0xA1, 0xA1, 0xA1, 0xFB] ++ p ++ [c1, c0]) ≠ 0 →
        exec (.mfmDataMark (p ++ [c1, c0])) s =
          .next (afterFailure (.crcMismatch s.frontProv .mfmData
            (crc ([0xA1, 0xA1, 0xA1, 0xFB] ++ p)) (c1 ++ c0)) s)) ∧
      (crc ([0xA1, 0xA1, 0xA1, 0xFB] ++ p ++ [c1, c0]) = 0 →
        ∀ geom : Geom, ((s.mgeom = none ∧ geom = .none) ∨ ∃ g, s.mgeom = some g ∧ geom = .mfm g) →
          exec (.mfmDataMark (p ++ [c1, c0])) s = .next
            { s with
              site := .search
              win := s.win.dropped 518
              trace := s.trace ++
                [.record (mkRecord .mfmData s.frontProv geom p),
                 .event (.recordAccepted s.frontProv .mfmData 512 geom)] }))

/-! ## DCD -/

/-- R213, R215 and R216: the first byte after a decoder reset reports Fresh before the phase's own
events, and changes no decoding state. A decoder that seeks a sync byte ignores every byte but `AA`,
which brings an unseeded one to the header and a seeded one to its groups. -/
def Obligations.DcdFreshAndSync : Prop :=
  (∀ (cfg : Config) (dir : LinkDir) (d : DcdDecoder) (b : Byte) (prov : Option Prov),
    d.fresh = true → dcdFeed cfg dir d b prov =
      { dcdFeed cfg dir { d with fresh := false } b prov with
        evs := .dcdSync dir .fresh prov ::
          (dcdFeed cfg dir { d with fresh := false } b prov).evs }) ∧
  (∀ (cfg : Config) (dir : LinkDir) (d : DcdDecoder) (b : Byte) (prov : Option Prov),
    d.fresh = false → d.phase = .seekingSync →
    (b ≠ 0xAA → dcdFeed cfg dir d b prov = ⟨d, .hopeful, []⟩) ∧
    (b = 0xAA → d.seed = none → dcdFeed cfg dir d b prov =
      ⟨{ d with syncProv := prov, phase := .readingHeader0 }, .hopeful,
        [.dcdSync dir .acquired prov]⟩) ∧
    (∀ n : Bits7, b = 0xAA → d.seed = some n → dcdFeed cfg dir d b prov =
      ⟨{ d with syncProv := prov, outGroups := n, inGroups := none, phase := .readingPayload },
        .hopeful, [.dcdSync dir .acquired prov]⟩))

/-- R217 and R218: the two header bytes, read in their low 7 bits; a frame of no groups completes at
once and is invalid. -/
def Obligations.DcdHeaderIsRead : Prop :=
  ∀ (cfg : Config) (dir : LinkDir) (d : DcdDecoder) (b : Byte) (prov : Option Prov),
    d.fresh = false →
    (d.phase = .readingHeader0 → dcdFeed cfg dir d b prov =
      ⟨{ d with outGroups := b.extractLsb' 0 7, phase := .readingHeader1 }, .hopeful, []⟩) ∧
    (d.phase = .readingHeader1 → d.outGroups ≠ 0 → dcdFeed cfg dir d b prov =
      ⟨{ d with inGroups := some (b.extractLsb' 0 7), phase := .readingPayload }, .hopeful, []⟩) ∧
    (d.phase = .readingHeader1 → d.outGroups = 0 → d.payload = [] → dcdFeed cfg dir d b prov =
      ⟨{ d with inGroups := some (b.extractLsb' 0 7), phase := .gaveUp }, .invalid,
        [.dcdFrameInvalid dir 0 none d.syncProv]⟩)

/-- R219, R220 and R223: body bytes are collected 7 to a group; the carrier assembles the group, and
completes the frame exactly when all its groups are there, valid or not. -/
def Obligations.DcdGroupsAreAssembled : Prop :=
  ∀ (cfg : Config) (dir : LinkDir) (d : DcdDecoder) (b : Byte) (prov : Option Prov) (p : List Byte),
    d.fresh = false → p = d.payload ++ d.body.mapIdx (fun k lo =>
      BitVec.ofBool (b.getLsbD (if dir = .p2h ∧ cfg.p2hOrder = .msbFirst then 6 - k else k)) ++ lo) →
    (d.phase = .readingPayload → d.body.length < 6 → dcdFeed cfg dir d b prov =
      ⟨{ d with body := d.body ++ [b.extractLsb' 0 7] }, .hopeful, []⟩) ∧
    (d.phase = .readingPayload → d.body.length = 6 → dcdFeed cfg dir d b prov =
      ⟨{ d with body := d.body ++ [b.extractLsb' 0 7], phase := .awaitingCarrier }, .hopeful, []⟩) ∧
    (d.phase = .awaitingCarrier → p.length ≠ 7 * d.outGroups.toNat → dcdFeed cfg dir d b prov =
      ⟨{ d with payload := p, body := [],
                phase := if b.getLsbD 7 then .readingPayload else .holdoff }, .hopeful, []⟩) ∧
    (d.phase = .awaitingCarrier → p.length = 7 * d.outGroups.toNat → validPayload dir p = true →
      dcdFeed cfg dir d b prov =
        ⟨{ d with payload := p, body := [] }, .valid p d.inGroups d.syncProv, []⟩) ∧
    (d.phase = .awaitingCarrier → p.length = 7 * d.outGroups.toNat → validPayload dir p = false →
      dcdFeed cfg dir d b prov =
        ⟨{ d with payload := p, body := [], phase := .gaveUp }, .invalid,
          [.dcdFrameInvalid dir (BitVec.ofNat 8 (p.map BitVec.toNat).sum) p.head? d.syncProv]⟩)

/-- R221 and R222: in Holdoff `AA` resumes and every other byte gives up; in GaveUp every byte is
ignored. -/
def Obligations.DcdHoldoffResumesOrGivesUp : Prop :=
  ∀ (cfg : Config) (dir : LinkDir) (d : DcdDecoder) (b : Byte) (prov : Option Prov),
    d.fresh = false →
    (d.phase = .holdoff → b = 0xAA → dcdFeed cfg dir d b prov =
      ⟨{ d with phase := .readingPayload }, .hopeful, [.dcdSync dir .resumed prov]⟩) ∧
    (d.phase = .holdoff → b ≠ 0xAA → dcdFeed cfg dir d b prov =
      ⟨{ d with phase := .gaveUp }, .gaveUp, [.dcdGaveUp dir .holdoffNoSync prov]⟩) ∧
    (d.phase = .gaveUp → dcdFeed cfg dir d b prov = ⟨d, .gaveUp, []⟩)

/-- R131 and R220: slot `k` of a group is its body bits under carrier bit `k`, or bit `6 − k` in the
peer-to-host direction under MsbFirst; and the carrier of R148 restores the payload. -/
def Obligations.DcdCarrierFillsBitSeven : Prop :=
  (∀ (cfg : Config) (dir : LinkDir) (body : List Bits7) (b : Byte) (k : Nat) (lo : Bits7),
    body[k]? = some lo →
      (assembleGroup cfg dir body b)[k]? = some (joinBit7
        (b.getLsbD (if dir = .p2h ∧ cfg.p2hOrder = .msbFirst then 6 - k else k)) lo)) ∧
  (∀ (cfg : Config) (dir : LinkDir) (g : List Byte) (cont : Bool), g.length = 7 →
    (dir = .h2p ∨ cfg.p2hOrder = .lsbFirst) →
      assembleGroup cfg dir (g.map (fun p => p.extractLsb' 0 7)) (carrierOf cont g) = g)

/-- R134, R224 and R225: validity is a sum of 0 modulo 256 and the direction's polarity of the first
payload byte; an empty payload is invalid; and a payload with the right polarity has exactly one
last byte that makes it valid. -/
def Obligations.DcdValidityIsSumAndPolarity : Prop :=
  (∀ dir : LinkDir, validPayload dir [] = false) ∧
  (∀ (dir : LinkDir) (first : Byte) (rest : List Byte),
    validPayload dir (first :: rest) = true ↔
      ((first :: rest).map BitVec.toNat).sum % 256 = 0 ∧
      first.getLsbD 7 = (match dir with
        | .h2p => false
        | .p2h => true)) ∧
  (∀ (dir : LinkDir) (first : Byte) (rest : List Byte),
    first.getLsbD 7 = (match dir with
        | .h2p => false
        | .p2h => true) →
      ∃! last : Byte, validPayload dir (first :: rest ++ [last]) = true)

/-- R230 to R233: after both feeds, whose events come first, a valid H2P frame wins, then a valid P2H
one, each with its record and the seed hand-off; else, if neither decoder is hopeful, the link is
desynchronized; else nothing more happens. -/
def Obligations.DcdLinkArbitration : Prop :=
  ∀ (s : State) (b : Byte) (prov : Option Prov) (h p : FeedOut) (tr : List Output),
    h = dcdFeed s.cfg .h2p s.h2p b prov → p = dcdFeed s.cfg .p2h s.p2h b prov →
    tr = s.trace ++ (h.evs ++ p.evs).map Output.event →
    (∀ pl ig sp, h.res = .valid pl ig sp → linkFeed b prov s =
      { s with
        h2p := dcdReset none
        p2h := dcdReset ig
        trace := tr ++ [.record ⟨.dcdH2P, sp.map Prov.txn, .link .h2p, sp.map Prov.off, .none, pl⟩,
          .event (.recordAccepted sp .dcdH2P pl.length .none)] }) ∧
    ((∀ pl ig sp, h.res ≠ .valid pl ig sp) → ∀ pl ig sp, p.res = .valid pl ig sp →
      linkFeed b prov s =
        { s with
          h2p := dcdReset ig
          p2h := dcdReset none
          trace := tr ++ [.record ⟨.dcdP2H, sp.map Prov.txn, .link .p2h, sp.map Prov.off, .none, pl⟩,
            .event (.recordAccepted sp .dcdP2H pl.length .none)] }) ∧
    ((h.res = .gaveUp ∨ h.res = .invalid) → (p.res = .gaveUp ∨ p.res = .invalid) →
      linkFeed b prov s =
        { s with
          h2p := dcdReset none
          p2h := dcdReset none
          trace := tr ++ [.event (.desync prov)] }) ∧
    ((h.res = .hopeful ∧ (∀ pl ig sp, p.res ≠ .valid pl ig sp)) ∨
      (p.res = .hopeful ∧ (∀ pl ig sp, h.res ≠ .valid pl ig sp)) →
      linkFeed b prov s = { s with h2p := h.dec, p2h := p.dec, trace := tr })

/-- R160: at site `Dcd` the byte at the front of the window is fed to the link and popped; an empty
window only clears `eos`. DCD_FRAME and DCD_REPLY feed their bytes to the link one after another,
the sync byte first, each with the provenance at the front of the window, which is then popped
(R230). -/
def Obligations.DcdFramesFeedEachByte : Prop :=
  (∀ s : State, s.site = .dcd →
    (s.win.buf = [] → act s = { s with win := ⟨[], false⟩ }) ∧
    (∀ (e : Entry) (es : List Entry) (t : State), s.win.buf = e :: es →
      t = linkFeed e.byte (some e.prov) s →
        act s = { t with site := .dcd, win := t.win.dropped 1 })) ∧
  (∀ (s : State) (seed : Bits7),
    (∀ t, t = linkFeed 0xAA s.frontProv s →
      exec (.dcdFrame []) s = .next { t with site := .dcd, win := t.win.dropped 1 } ∧
      exec (.dcdReply seed []) s = .next { t with site := .dcd, win := t.win.dropped 1 }) ∧
    (∀ (body : List Byte) (b : Byte), ∃ u t : State,
      t = linkFeed b u.frontProv u ∧
      exec (.dcdFrame body) s = .next u ∧ exec (.dcdReply seed body) s = .next u ∧
      exec (.dcdFrame (body ++ [b])) s = .next { t with site := .dcd, win := t.win.dropped 1 } ∧
      exec (.dcdReply seed (body ++ [b])) s = .next { t with site := .dcd, win := t.win.dropped 1 }))

/-- Headline (property 5; R148, R238): a frame of one to 127 groups, fed to two decoders that wait for
a sync byte without a seed, with any continuation flags. A payload valid for H2P is delivered, and
seeds P2H. With the two directions assembled alike, a payload valid for P2H is delivered, and seeds
H2P, and one whose sum is not 0 ends in a desync and no record. -/
def Obligations.DcdFrameIsReconstructed : Prop :=
  ∀ (s : State) (gs : List (List Byte)) (inGroups : Bits7) (conts : List Bool),
    (∀ g ∈ gs, g.length = 7) → 0 < gs.length → gs.length ≤ 127 →
    s.h2p = dcdReset none → s.p2h = dcdReset none →
      ∃ t : State, exec (.dcdFrame (asmDcdFrameBody gs inGroups conts)) s = .next t ∧
        (validPayload .h2p gs.flatten = true →
          t.records = s.records ++ [mkRecord .dcdH2P s.frontProv .none gs.flatten] ∧
          t.h2p = dcdReset none ∧ t.p2h = dcdReset (some inGroups)) ∧
        (s.cfg.p2hOrder = .lsbFirst → validPayload .p2h gs.flatten = true →
          t.records = s.records ++ [mkRecord .dcdP2H s.frontProv .none gs.flatten] ∧
          t.h2p = dcdReset (some inGroups) ∧ t.p2h = dcdReset none) ∧
        (s.cfg.p2hOrder = .lsbFirst → byteSum gs.flatten ≠ 0 →
          t.records = s.records ∧ t.h2p = dcdReset none ∧ t.p2h = dcdReset none ∧
          ∃ prov, t.events.getLast? = some (.desync prov))

/-- Headline (R133, R216, R230, R232, R237): a reply of as many groups as P2H's seed, with any
continuation flags, fed while H2P is in whatever state. Where H2P's own parse of the reply yields no valid
frame, a payload valid for P2H is delivered and the link returns to its initial state. So it is where H2P
waits for a sync byte without a seed, as the seeding frame left it, if the reply's first payload byte is
0 in its low 7 bits, or the reply is shorter than the frame that H2P reads there. Where H2P's parse does
yield a frame, an H2P record comes first (R230, R231; log entry 17). -/
def Obligations.DcdReplyIsReconstructed : Prop :=
  ∀ (s : State) (seed : Bits7) (gs : List (List Byte)) (conts : List Bool) (first : Bits7),
    (∀ g ∈ gs, g.length = 7) → seed ≠ 0 → gs.length = seed.toNat → s.cfg.p2hOrder = .lsbFirst →
    s.p2h = { dcdReset (some seed) with fresh := s.p2h.fresh } →
    first = (byteAt gs.flatten 0).extractLsb' 0 7 →
      ∃ t : State, exec (.dcdReply seed (asmGroups gs conts)) s = .next t ∧
        ((yieldsFrame s.cfg .h2p s.h2p (0xAA :: asmGroups gs conts) = false ∨
            (s.h2p = { dcdReset none with fresh := s.h2p.fresh } ∧
              (first = 0 ∨ (asmGroups gs conts).length < 2 + 8 * first.toNat))) →
          validPayload .p2h gs.flatten = true →
          t.records = s.records ++ [mkRecord .dcdP2H s.frontProv .none gs.flatten] ∧
          t.h2p = dcdReset none ∧ t.p2h = dcdReset none) ∧
        (yieldsFrame s.cfg .h2p s.h2p (0xAA :: asmGroups gs conts) = true →
          ∃ r : Record, r.kind = .dcdH2P ∧ s.records ++ [r] <+: t.records)

/-- Headline, the mirror (R133, R216, R230 to R232): a reply of as many groups as H2P's seed, fed while
P2H is in whatever state. H2P wins where both complete a valid frame on one byte (R231), so only a valid
frame of P2H before the reply's last byte comes first. That such a frame comes first, and resets H2P, is
R230's procedure and R392's cross-talk; R237's sentence says that it cannot stop the reply, and to follow
R230 there is the model's choice, DEDUCED: log entry 17. -/
def Obligations.DcdReplyToPeerIsReconstructed : Prop :=
  ∀ (s : State) (seed : Bits7) (gs : List (List Byte)) (conts : List Bool) (first : Bits7),
    (∀ g ∈ gs, g.length = 7) → seed ≠ 0 → gs.length = seed.toNat →
    s.h2p = { dcdReset (some seed) with fresh := s.h2p.fresh } →
    first = (byteAt gs.flatten 0).extractLsb' 0 7 →
      ∃ t : State, exec (.dcdReply seed (asmGroups gs conts)) s = .next t ∧
        ((yieldsFrame s.cfg .p2h s.p2h (0xAA :: (asmGroups gs conts).dropLast) = false ∨
            (s.p2h = { dcdReset none with fresh := s.p2h.fresh } ∧
              (first = 0 ∨ (asmGroups gs conts).length ≤ 2 + 8 * first.toNat))) →
          validPayload .h2p gs.flatten = true →
          t.records = s.records ++ [mkRecord .dcdH2P s.frontProv .none gs.flatten] ∧
          t.h2p = dcdReset none ∧ t.p2h = dcdReset none) ∧
        (yieldsFrame s.cfg .p2h s.p2h (0xAA :: (asmGroups gs conts).dropLast) = true →
          ∃ r : Record, r.kind = .dcdP2H ∧ s.records ++ [r] <+: t.records)

/-! ## Whole-machine rules -/

/-- R44: nothing is refused at power-on, a reserved or unexpected word leaves a reason, and no step
ever clears or changes the reason, RESET included. -/
def Obligations.RefusalIsStickyFromTheFirst : Prop :=
  State.reset.refused = none ∧
  (∀ (s t : State) (r : RefuseReason), step s = .next t → s.refused = some r → t.refused = some r) ∧
  (∀ (r : RefuseReason) (s : State), s.refused = none → (refuse r s).refused = some r)

/-- R42, R355 and R382: a step only appends to the outputs, on each port and across the ports, RESET
and STOP included. -/
def Obligations.OutputsAreAppendOnly : Prop :=
  ∀ s t : State, step s = .next t →
    s.trace <+: t.trace ∧ s.capture <+: t.capture ∧ s.events <+: t.events ∧ s.records <+: t.records

/-- R43 and R88: a BYTE read while running emits exactly one capture entry, before everything else
that it causes, and no other instruction emits one. -/
def Obligations.EveryByteIsCapturedOnceAndFirst : Prop :=
  (∀ (s : State) (b : Byte), s.run = .running → ∃ (t : State) (outs : List Output),
    exec (.byte b) s = .next t ∧
    t.trace = s.trace ++ .capture ⟨(tagByte s.cfg s.mode s.fr b).1.txn,
      (tagByte s.cfg s.mode s.fr b).1.dir, b⟩ :: outs ∧
    ∀ o ∈ outs, ∀ e, o ≠ .capture e) ∧
  (∀ (s t : State) (i : Instr), (s.run ≠ .running ∨ ∀ b, i ≠ .byte b) → exec i s = .next t →
    t.capture = s.capture)

/-- R84 and R382: no step writes the configuration, the nibble table in it included. -/
def Obligations.ConfigurationIsNeverWritten : Prop :=
  ∀ s t : State, step s = .next t → t.cfg = s.cfg

/-- R31: the run state and the mode change at RESET, and the run state at a STOP of a running session,
and nowhere else. -/
def Obligations.ControlStateChangesOnlyByResetAndStop : Prop :=
  State.reset.run = .unconfigured ∧
  (∀ (s t : State) (m : Mode), exec (.reset m) s = .next t → t.run = .running ∧ t.mode = m) ∧
  (∀ (s t : State) (i : Instr), (∀ m, i ≠ .reset m) → exec i s = .next t →
    t.mode = s.mode ∧
    t.run = (if i = .stop ∧ s.run = .running then .stopped else s.run))

/-- R35, R36 and R46: a geometry register changes only at a RESET or where its address mark's event is
emitted. -/
def Obligations.GeometryChangesOnlyAtAddressMarks : Prop :=
  ∀ (s t : State) (i : Instr) (outs : List Output), (∀ m, i ≠ .reset m) → exec i s = .next t →
    t.trace = s.trace ++ outs →
    ((∀ p tr sec side fmt, .event (.gcrAddressMark p tr sec side fmt) ∉ outs) →
      t.ggeom = s.ggeom) ∧
    ((∀ p tr side sec z, .event (.mfmAddressMark p tr side sec z) ∉ outs) → t.mgeom = s.mgeom)

/-! ## Invariants -/

/-- The invariants below hold at power-on. The mode, the site and the other fields that the spec
leaves unspecified there have the model's values (log entry 7). -/
def Obligations.InvariantsHoldAtReset : Prop :=
  SequencerInv State.reset ∧ FramerInv State.reset ∧ LinkInv State.reset ∧ OutputsInv State.reset

/-- Headline (R157): between steps a read is always pending, at a site of the mode, with a record
site's signature at the front of the window. -/
def Obligations.SequencerInvIsKept : Prop :=
  ∀ s t : State, SequencerInv s → step s = .next t → SequencerInv t

/-- Every step keeps the framer's invariant: the counters wrap within their widths, and no transaction
opens in MFM mode (R33, R185). -/
def Obligations.FramerInvIsKept : Prop :=
  ∀ s t : State, FramerInv s → step s = .next t → FramerInv t

/-- Headline (R39, R40): every step keeps both DCD decoders legal: at most 889 payload bytes in whole
groups, fewer than the frame has, a body that fits the phase, no seed of 0. -/
def Obligations.LinkInvIsKept : Prop :=
  ∀ s t : State, SequencerInv s → LinkInv s → step s = .next t → LinkInv t

/-- Headline (R140, R351): every record that a run delivers is sound for its kind, and the
RecordAccepted events are exactly the records' own, in order. -/
def Obligations.OutputsInvIsKept : Prop :=
  ∀ s t : State, SequencerInv s → LinkInv s → OutputsInv s → step s = .next t → OutputsInv t

/-! ## Events -/

/-- R350: the event codes and the numbers of the coded fields, and that codes 0x00 and 0x10 to 0xFF
are never used. -/
def Obligations.EventCodesAreTheTable : Prop :=
  (∀ p b, (Event.skip p b).code = 0x01) ∧ (∀ p k n, (Event.truncated p k n).code = 0x02) ∧
  (∀ p k l, (Event.invalidSymbol p k l).code = 0x03) ∧
  (∀ p v j, (Event.denibError p v j).code = 0x04) ∧
  (∀ p k a b, (Event.checksumMismatch p k a b).code = 0x05) ∧
  (∀ p a b, (Event.sectorMismatch p a b).code = 0x06) ∧
  (∀ p k a b, (Event.crcMismatch p k a b).code = 0x07) ∧
  (∀ p a b c d, (Event.gcrAddressMark p a b c d).code = 0x08) ∧
  (∀ p, (Event.mfmIndexMark p).code = 0x09) ∧
  (∀ p a b c d, (Event.mfmAddressMark p a b c d).code = 0x0A) ∧
  (∀ p k n g, (Event.recordAccepted p k n g).code = 0x0B) ∧
  (∀ d h p, (Event.dcdSync d h p).code = 0x0C) ∧ (∀ d r p, (Event.dcdGaveUp d r p).code = 0x0D) ∧
  (∀ d a b p, (Event.dcdFrameInvalid d a b p).code = 0x0E) ∧
  (∀ p, (Event.desync p).code = 0x0F) ∧
  (∀ e : Event, 0 < e.code.toNat ∧ e.code.toNat < 0x10) ∧
  (Kind.gcrAddr.code = 0 ∧ Kind.gcrData.code = 1 ∧ Kind.mfmAddr.code = 2 ∧ Kind.mfmData.code = 3 ∧
    Kind.dcdH2P.code = 4 ∧ Kind.dcdP2H.code = 5) ∧
  (LinkDir.h2p.code = 0 ∧ LinkDir.p2h.code = 1) ∧
  (SyncHow.fresh.code = 0 ∧ SyncHow.acquired.code = 1 ∧ SyncHow.resumed.code = 2) ∧
  GaveUpReason.holdoffNoSync.code = 0

/-- R351: EMIT_RECORD appends the record, its direction the link's for DCD and the provenance's
otherwise, and then its RecordAccepted event; nothing else changes. -/
def Obligations.RecordIsEmittedWithItsEvent : Prop :=
  ∀ (kind : Kind) (prov : Prov) (geom : Geom) (payload : List Byte) (dir : RecordDir) (s : State),
    (kind = .dcdH2P ∧ dir = .link .h2p) ∨ (kind = .dcdP2H ∧ dir = .link .p2h) ∨
      (kind ≠ .dcdH2P ∧ kind ≠ .dcdP2H ∧
        ((prov.dir = none ∧ dir = .none) ∨ ∃ d, prov.dir = some d ∧ dir = .bit d)) →
      emitRecord kind (some prov) geom payload s =
        { s with trace := s.trace ++
          [.record ⟨kind, some prov.txn, dir, some prov.off, geom, payload⟩,
           .event (.recordAccepted (some prov) kind payload.length geom)] }

/-- R356: the fixed rendering `tk %03d side %d sec %03d size %d` of an MFM address mark, for every
track, side, sector and size; no other event has one. -/
def Obligations.MfmAddressMarkLogLine : Prop :=
  (∀ (p : Option Prov) (track side sector : Byte) (size : BitVec 16),
    let pad3 (ds : List Char) : List Char := List.replicate (3 - ds.length) '0' ++ ds
    (Event.mfmAddressMark p track side sector size).logLine =
      some ("tk ".toList ++ pad3 (Nat.toDigits 10 track.toNat) ++
        " side ".toList ++ Nat.toDigits 10 side.toNat ++
        " sec ".toList ++ pad3 (Nat.toDigits 10 sector.toNat) ++
        " size ".toList ++ Nat.toDigits 10 size.toNat)) ∧
  (∀ e : Event, (∀ p track side sector size, e ≠ .mfmAddressMark p track side sector size) →
    e.logLine = none)
end

