-- ==== Sys2Proof/Laws/Bits.lean ====
section
/-! SUPPORT. Lemmas about bit fields, byte sums, the nibble helpers and the CRC register. -/

namespace Sys2Proof.Machine

@[simp] theorem withValue_eq {w : Nat} {α : Type} (v : BitVec w) (f : BitVec w → α) :
    withValue v f = f v := by
  unfold withValue
  split <;> rename_i h
  · congr 1
    exact BitVec.eq_of_toNat_eq (by simp [h])
  · rename_i n
    have hn : n + 1 = v.toNat := h.symm
    rw [hn]
    simp

@[simp] theorem low7_joinBit7 (hi : Bool) (lo : Bits7) : low7 (joinBit7 hi lo) = lo := by
  revert hi lo
  decide

@[simp] theorem msb_joinBit7 (hi : Bool) (lo : Bits7) : (joinBit7 hi lo).msb = hi := by
  revert hi lo
  decide

theorem joinBit7_low7 (b : Byte) : joinBit7 b.msb (low7 b) = b := by
  revert b
  decide

@[simp] theorem byteSum_append (p q : List Byte) : byteSum (p ++ q) = byteSum p + byteSum q := by
  induction p with
  | nil => simp [byteSum]
  | cons b p ih => simp [byteSum, ih, BitVec.add_assoc]

@[simp] theorem crcFrom_append (c : Crc) (r q : List Byte) :
    crcFrom c (r ++ q) = crcFrom (crcFrom c r) q := by
  induction r generalizing c with
  | nil => rfl
  | cons b r ih => simp [crcFrom, ih]

theorem crcFrom_eq_foldl (c : Crc) (r : List Byte) : crcFrom c r = r.foldl crcStep c := by
  induction r generalizing c with
  | nil => rfl
  | cons b r ih => simp [crcFrom, ih]

@[simp] theorem length_slice (r : List Byte) (i n : Nat) :
    (slice r i n).length = min n (r.length - i) := by
  simp [slice]

theorem invalidSymbols_eq_nil_iff (cfg : Config) (r : List Byte) :
    invalidSymbols cfg r = [] ↔ ∀ b ∈ r, ∃ v, lookup cfg b = some v := by
  simp [invalidSymbols, List.filter_eq_nil_iff, Option.ne_none_iff_exists']

/-- Where no symbol is INVALID there is one nibble value for each. -/
theorem length_nibbles (cfg : Config) (r : List Byte) (h : invalidSymbols cfg r = []) :
    (nibbles cfg r).length = r.length := by
  rw [invalidSymbols_eq_nil_iff] at h
  induction r with
  | nil => rfl
  | cons b r ih =>
    obtain ⟨v, hv⟩ := h b (by simp)
    have := ih (fun b' hb' => h b' (by simp [hb']))
    simpa [nibbles, hv] using this

/-- The checksum engine keeps the length of its buffer. -/
theorem length_cksumFrom (m : GcrAdd) (acc : Acc) (d : List Byte) :
    (cksumFrom m acc d).1.length = d.length := by
  fun_induction cksumFrom m acc d <;> simp_all

theorem length_cksum (m : GcrAdd) (d : List Byte) : (cksum m d).1.length = d.length :=
  length_cksumFrom m _ d

end Sys2Proof.Machine
end

