-- ==== Sys2Proof/Laws/Dcd.lean ====
section
/-! SUPPORT. What a DCD decoder's feed keeps, when its result is a valid frame (42_dcd.md R211 to R225),
and when a run of feeds yields one (R237). -/

namespace Sys2Proof.Machine

@[simp] theorem dcdReset_phase (x : Option Bits7) : (dcdReset x).phase = .seekingSync := rfl
@[simp] theorem dcdReset_fresh (x : Option Bits7) : (dcdReset x).fresh = true := rfl
@[simp] theorem dcdReset_payload (x : Option Bits7) : (dcdReset x).payload = [] := rfl
@[simp] theorem dcdReset_body (x : Option Bits7) : (dcdReset x).body = [] := rfl
@[simp] theorem dcdReset_outGroups (x : Option Bits7) : (dcdReset x).outGroups = 0 := rfl
@[simp] theorem dcdReset_inGroups (x : Option Bits7) : (dcdReset x).inGroups = none := rfl
@[simp] theorem dcdReset_syncProv (x : Option Bits7) : (dcdReset x).syncProv = none := rfl

/-- A reset leaves no seed of 0 (R214). -/
theorem dcdReset_seed (x : Option Bits7) : (dcdReset x).seed = if x = some 0 then none else x := rfl

theorem dcdReset_seed_ne_zero (x : Option Bits7) : (dcdReset x).seed ≠ some 0 := by
  rw [dcdReset_seed]
  split_ifs with h
  · simp
  · exact h

theorem dcdReset_none : dcdReset none = DcdDecoder.unseeded := rfl

@[simp] theorem length_assembleGroup (cfg : Config) (dir : LinkDir) (body : List Bits7) (b : Byte) :
    (assembleGroup cfg dir body b).length = body.length := by
  simp [assembleGroup]

/-- `COMPLETE` ends valid with the payload as assembled, or the decoder gives up (R223). -/
theorem complete_cases (dir : LinkDir) (d : DcdDecoder) :
    (validPayload dir d.payload = true ∧
      complete dir d = ⟨d, .valid d.payload d.inGroups d.syncProv, []⟩) ∨
    (validPayload dir d.payload = false ∧ complete dir d = ⟨{ d with phase := .gaveUp }, .invalid,
      [.dcdFrameInvalid dir (byteSum d.payload) d.payload.head? d.syncProv]⟩) := by
  unfold complete
  cases h : validPayload dir d.payload
  · exact .inr ⟨rfl, by simp⟩
  · exact .inl ⟨rfl, by simp⟩

/-- A phase's work keeps the seed and `fresh` (R212, R216). -/
theorem feedPhase_keeps (cfg : Config) (dir : LinkDir) (d : DcdDecoder) (b : Byte)
    (prov : Option Prov) : (feedPhase cfg dir d b prov).dec.seed = d.seed ∧
      (feedPhase cfg dir d b prov).dec.fresh = d.fresh := by
  unfold feedPhase
  split
  · unfold feedSeek
    split_ifs
    · exact ⟨rfl, rfl⟩
    · split <;> exact ⟨rfl, rfl⟩
  · exact ⟨rfl, rfl⟩
  · unfold feedHdr1 startPayload
    split_ifs
    · rcases complete_cases dir { d with inGroups := some (low7 b) } with ⟨-, h⟩ | ⟨-, h⟩ <;>
        rw [h] <;> exact ⟨rfl, rfl⟩
    · exact ⟨rfl, rfl⟩
  · exact ⟨rfl, rfl⟩
  · unfold feedCarrier
    dsimp only
    split_ifs
    · rcases complete_cases dir
        { d with payload := d.payload ++ assembleGroup cfg dir d.body b, body := [] } with
          ⟨-, h⟩ | ⟨-, h⟩ <;> rw [h] <;> exact ⟨rfl, rfl⟩
    · exact ⟨rfl, rfl⟩
    · exact ⟨rfl, rfl⟩
  · unfold feedHoldoff
    split_ifs <;> exact ⟨rfl, rfl⟩
  · exact ⟨rfl, rfl⟩

/-- A fed decoder is not fresh, and its seed is as it was (R213, R216). -/
theorem dcdFeed_keeps (cfg : Config) (dir : LinkDir) (d : DcdDecoder) (b : Byte)
    (prov : Option Prov) : (dcdFeed cfg dir d b prov).dec.seed = d.seed ∧
      (dcdFeed cfg dir d b prov).dec.fresh = false :=
  feedPhase_keeps cfg dir { d with fresh := false } b prov

/-- A valid frame completes on a carrier, with the frame's groups all there, and its payload passes the
direction's validity check (R220, R223, R224). -/
theorem dcdFeed_valid {cfg : Config} {dir : LinkDir} {d : DcdDecoder} {b : Byte}
    {prov : Option Prov} {pl : List Byte} {ig : Option Bits7} {sp : Option Prov}
    (h : (dcdFeed cfg dir d b prov).res = .valid pl ig sp) :
    validPayload dir pl = true ∧ sp = d.syncProv ∧
      ((d.phase = .awaitingCarrier ∧ ig = d.inGroups ∧ pl.length = 7 * d.outGroups.toNat ∧
        pl = d.payload ++ assembleGroup cfg dir d.body b) ∨
       (d.phase = .readingHeader1 ∧ d.outGroups = 0 ∧ pl = d.payload ∧ ig = some (low7 b))) := by
  have h' : (feedPhase cfg dir { d with fresh := false } b prov).res = .valid pl ig sp := h
  unfold feedPhase at h'
  split at h'
  · unfold feedSeek at h'
    split_ifs at h'
    split at h' <;> simp at h'
  · simp [feedHdr0] at h'
  · unfold feedHdr1 startPayload at h'
    split_ifs at h' with h0
    rcases complete_cases dir { d with fresh := false, inGroups := some (low7 b) } with
      ⟨hv, hc⟩ | ⟨-, hc⟩
    · rw [hc] at h'
      simp only [FeedResult.valid.injEq] at h'
      obtain ⟨rfl, rfl, rfl⟩ := h'
      exact ⟨hv, rfl, .inr ⟨by assumption, h0, rfl, rfl⟩⟩
    · rw [hc] at h'
      simp at h'
  · simp [feedBody] at h'
  · unfold feedCarrier at h'
    dsimp only at h'
    split_ifs at h' with hl
    rcases complete_cases dir { d with
        fresh := false, payload := d.payload ++ assembleGroup cfg dir d.body b, body := [] } with
      ⟨hv, hc⟩ | ⟨-, hc⟩
    · rw [hc] at h'
      simp only [FeedResult.valid.injEq] at h'
      obtain ⟨rfl, rfl, rfl⟩ := h'
      exact ⟨hv, rfl, .inl ⟨by assumption, rfl, hl, rfl⟩⟩
    · rw [hc] at h'
      simp at h'
  · unfold feedHoldoff at h'
    split_ifs at h'
  · simp at h'

/-! ## Runs of feeds -/

@[simp] theorem FeedResult.isValid_iff (r : FeedResult) :
    r.isValid = true ↔ ∃ pl ig sp, r = .valid pl ig sp := by
  cases r <;> simp [FeedResult.isValid]

@[simp] theorem yieldsFrame_nil (cfg : Config) (dir : LinkDir) (d : DcdDecoder) :
    yieldsFrame cfg dir d [] = false := rfl

@[simp] theorem yieldsFrame_cons (cfg : Config) (dir : LinkDir) (d : DcdDecoder) (b : Byte)
    (bs : List Byte) : yieldsFrame cfg dir d (b :: bs) =
      ((dcdFeed cfg dir d b none).res.isValid ||
        yieldsFrame cfg dir (dcdFeed cfg dir d b none).dec bs) := rfl

/-- A decoder that has given up yields no frame (R222). -/
theorem yieldsFrame_gaveUp (cfg : Config) (dir : LinkDir) {d : DcdDecoder} (bs : List Byte)
    (h : d.phase = .gaveUp) : yieldsFrame cfg dir d bs = false := by
  induction bs generalizing d with
  | nil => rfl
  | cons b bs ih =>
    have hf : dcdFeed cfg dir d b none = ⟨{ d with fresh := false }, .gaveUp,
        if d.fresh then [.dcdSync dir .fresh none] else []⟩ := by simp [dcdFeed, feedPhase, h]
    rw [yieldsFrame_cons, hf, ih (d := { d with fresh := false }) h]
    rfl

/-- What yields no frame yields none of its beginnings either. -/
theorem yieldsFrame_append_left (cfg : Config) (dir : LinkDir) (d : DcdDecoder) (xs ys : List Byte)
    (h : yieldsFrame cfg dir d (xs ++ ys) = false) : yieldsFrame cfg dir d xs = false := by
  induction xs generalizing d with
  | nil => rfl
  | cons b xs ih =>
    simp only [List.cons_append, yieldsFrame_cons, Bool.or_eq_false_iff] at h ⊢
    exact ⟨h.1, ih _ h.2⟩

/-- `COMPLETE` reads and keeps the sync byte's provenance, and its verdict does not depend on it (R223). -/
theorem complete_syncProv (dir : LinkDir) (d : DcdDecoder) (p : Option Prov) :
    (complete dir { d with syncProv := p }).dec = { (complete dir d).dec with syncProv := p } ∧
      (complete dir { d with syncProv := p }).res.isValid = (complete dir d).res.isValid := by
  simp only [complete]
  split_ifs <;> exact ⟨rfl, rfl⟩

/-- No provenance has a part in a feed's verdict, or in the decoder but for `syncProv` (R212 to R223). -/
theorem dcdFeed_syncProv (cfg : Config) (dir : LinkDir) (d : DcdDecoder) (b : Byte)
    (p q q' : Option Prov) :
    ∃ p', (dcdFeed cfg dir { d with syncProv := p } b q).dec =
        { (dcdFeed cfg dir d b q').dec with syncProv := p' } ∧
      (dcdFeed cfg dir { d with syncProv := p } b q).res.isValid =
        (dcdFeed cfg dir d b q').res.isValid := by
  obtain ⟨ph, fresh, seed, outG, inG, payload, body, sp⟩ := d
  cases ph <;> simp only [dcdFeed, feedPhase]
  case seekingSync =>
    simp only [feedSeek]
    split_ifs
    · exact ⟨p, rfl, rfl⟩
    · cases seed <;> exact ⟨q, rfl, rfl⟩
  case readingHeader1 =>
    simp only [feedHdr1, startPayload]
    split_ifs
    · exact ⟨p, complete_syncProv dir ⟨_, _, _, _, _, _, _, sp⟩ p⟩
    · exact ⟨p, rfl, rfl⟩
  case awaitingCarrier =>
    simp only [feedCarrier]
    split_ifs
    · exact ⟨p, complete_syncProv dir ⟨_, _, _, _, _, _, _, sp⟩ p⟩
    · exact ⟨p, rfl, rfl⟩
    · exact ⟨p, rfl, rfl⟩
  case holdoff =>
    simp only [feedHoldoff]
    split_ifs <;> exact ⟨p, rfl, rfl⟩
  all_goals exact ⟨p, rfl, by trivial⟩

/-- Whether a run of feeds yields a frame does not depend on the decoder's `syncProv`. -/
theorem yieldsFrame_syncProv (cfg : Config) (dir : LinkDir) (d : DcdDecoder) (p : Option Prov)
    (bs : List Byte) : yieldsFrame cfg dir { d with syncProv := p } bs = yieldsFrame cfg dir d bs := by
  induction bs generalizing d p with
  | nil => rfl
  | cons b bs ih =>
    obtain ⟨p', hd, hr⟩ := dcdFeed_syncProv cfg dir d b p none none
    rw [yieldsFrame_cons, yieldsFrame_cons, hd, hr, ih]

end Sys2Proof.Machine
end

