-- ==== Sys2Proof/Laws/State.lean ====
section
/-! SUPPORT. One lemma per field for each shared operation on the state, and the three ports of a
longer trace. -/

namespace Sys2Proof.Machine

/-! ## `emit` -/

@[simp] theorem emit_cfg (o : Output) (s : State) : (emit o s).cfg = s.cfg := rfl
@[simp] theorem emit_run (o : Output) (s : State) : (emit o s).run = s.run := rfl
@[simp] theorem emit_mode (o : Output) (s : State) : (emit o s).mode = s.mode := rfl
@[simp] theorem emit_site (o : Output) (s : State) : (emit o s).site = s.site := rfl
@[simp] theorem emit_fr (o : Output) (s : State) : (emit o s).fr = s.fr := rfl
@[simp] theorem emit_win (o : Output) (s : State) : (emit o s).win = s.win := rfl
@[simp] theorem emit_ggeom (o : Output) (s : State) : (emit o s).ggeom = s.ggeom := rfl
@[simp] theorem emit_mgeom (o : Output) (s : State) : (emit o s).mgeom = s.mgeom := rfl
@[simp] theorem emit_h2p (o : Output) (s : State) : (emit o s).h2p = s.h2p := rfl
@[simp] theorem emit_p2h (o : Output) (s : State) : (emit o s).p2h = s.p2h := rfl
@[simp] theorem emit_trace (o : Output) (s : State) : (emit o s).trace = s.trace ++ [o] := rfl
@[simp] theorem emit_refused (o : Output) (s : State) : (emit o s).refused = s.refused := rfl
@[simp] theorem emit_input (o : Output) (s : State) : (emit o s).input = s.input := rfl

/-! ## `emitEvent` -/

@[simp] theorem emitEvent_cfg (e : Event) (s : State) : (emitEvent e s).cfg = s.cfg := rfl
@[simp] theorem emitEvent_run (e : Event) (s : State) : (emitEvent e s).run = s.run := rfl
@[simp] theorem emitEvent_mode (e : Event) (s : State) : (emitEvent e s).mode = s.mode := rfl
@[simp] theorem emitEvent_site (e : Event) (s : State) : (emitEvent e s).site = s.site := rfl
@[simp] theorem emitEvent_fr (e : Event) (s : State) : (emitEvent e s).fr = s.fr := rfl
@[simp] theorem emitEvent_win (e : Event) (s : State) : (emitEvent e s).win = s.win := rfl
@[simp] theorem emitEvent_ggeom (e : Event) (s : State) : (emitEvent e s).ggeom = s.ggeom := rfl
@[simp] theorem emitEvent_mgeom (e : Event) (s : State) : (emitEvent e s).mgeom = s.mgeom := rfl
@[simp] theorem emitEvent_h2p (e : Event) (s : State) : (emitEvent e s).h2p = s.h2p := rfl
@[simp] theorem emitEvent_p2h (e : Event) (s : State) : (emitEvent e s).p2h = s.p2h := rfl
@[simp] theorem emitEvent_trace (e : Event) (s : State) : (emitEvent e s).trace = s.trace ++ [.event e] := rfl
@[simp] theorem emitEvent_refused (e : Event) (s : State) : (emitEvent e s).refused = s.refused := rfl
@[simp] theorem emitEvent_input (e : Event) (s : State) : (emitEvent e s).input = s.input := rfl

/-! ## `emitEvents` -/

@[simp] theorem emitEvents_cfg (es : List Event) (s : State) : (emitEvents es s).cfg = s.cfg := rfl
@[simp] theorem emitEvents_run (es : List Event) (s : State) : (emitEvents es s).run = s.run := rfl
@[simp] theorem emitEvents_mode (es : List Event) (s : State) : (emitEvents es s).mode = s.mode := rfl
@[simp] theorem emitEvents_site (es : List Event) (s : State) : (emitEvents es s).site = s.site := rfl
@[simp] theorem emitEvents_fr (es : List Event) (s : State) : (emitEvents es s).fr = s.fr := rfl
@[simp] theorem emitEvents_win (es : List Event) (s : State) : (emitEvents es s).win = s.win := rfl
@[simp] theorem emitEvents_ggeom (es : List Event) (s : State) : (emitEvents es s).ggeom = s.ggeom := rfl
@[simp] theorem emitEvents_mgeom (es : List Event) (s : State) : (emitEvents es s).mgeom = s.mgeom := rfl
@[simp] theorem emitEvents_h2p (es : List Event) (s : State) : (emitEvents es s).h2p = s.h2p := rfl
@[simp] theorem emitEvents_p2h (es : List Event) (s : State) : (emitEvents es s).p2h = s.p2h := rfl
@[simp] theorem emitEvents_trace (es : List Event) (s : State) : (emitEvents es s).trace = s.trace ++ es.map .event := rfl
@[simp] theorem emitEvents_refused (es : List Event) (s : State) : (emitEvents es s).refused = s.refused := rfl
@[simp] theorem emitEvents_input (es : List Event) (s : State) : (emitEvents es s).input = s.input := rfl

/-! ## `emitCapture` -/

@[simp] theorem emitCapture_cfg (p : Prov) (b : Byte) (s : State) : (emitCapture p b s).cfg = s.cfg := rfl
@[simp] theorem emitCapture_run (p : Prov) (b : Byte) (s : State) : (emitCapture p b s).run = s.run := rfl
@[simp] theorem emitCapture_mode (p : Prov) (b : Byte) (s : State) : (emitCapture p b s).mode = s.mode := rfl
@[simp] theorem emitCapture_site (p : Prov) (b : Byte) (s : State) : (emitCapture p b s).site = s.site := rfl
@[simp] theorem emitCapture_fr (p : Prov) (b : Byte) (s : State) : (emitCapture p b s).fr = s.fr := rfl
@[simp] theorem emitCapture_win (p : Prov) (b : Byte) (s : State) : (emitCapture p b s).win = s.win := rfl
@[simp] theorem emitCapture_ggeom (p : Prov) (b : Byte) (s : State) : (emitCapture p b s).ggeom = s.ggeom := rfl
@[simp] theorem emitCapture_mgeom (p : Prov) (b : Byte) (s : State) : (emitCapture p b s).mgeom = s.mgeom := rfl
@[simp] theorem emitCapture_h2p (p : Prov) (b : Byte) (s : State) : (emitCapture p b s).h2p = s.h2p := rfl
@[simp] theorem emitCapture_p2h (p : Prov) (b : Byte) (s : State) : (emitCapture p b s).p2h = s.p2h := rfl
@[simp] theorem emitCapture_trace (p : Prov) (b : Byte) (s : State) : (emitCapture p b s).trace = s.trace ++ [.capture ⟨p.txn, p.dir, b⟩] := rfl
@[simp] theorem emitCapture_refused (p : Prov) (b : Byte) (s : State) : (emitCapture p b s).refused = s.refused := rfl
@[simp] theorem emitCapture_input (p : Prov) (b : Byte) (s : State) : (emitCapture p b s).input = s.input := rfl

/-! ## `pop` -/

@[simp] theorem pop_cfg (n : Nat) (s : State) : (pop n s).cfg = s.cfg := rfl
@[simp] theorem pop_run (n : Nat) (s : State) : (pop n s).run = s.run := rfl
@[simp] theorem pop_mode (n : Nat) (s : State) : (pop n s).mode = s.mode := rfl
@[simp] theorem pop_site (n : Nat) (s : State) : (pop n s).site = s.site := rfl
@[simp] theorem pop_fr (n : Nat) (s : State) : (pop n s).fr = s.fr := rfl
@[simp] theorem pop_win (n : Nat) (s : State) : (pop n s).win = ⟨s.win.buf.drop n, if s.win.buf.drop n = [] then false else s.win.eos⟩ := rfl
@[simp] theorem pop_ggeom (n : Nat) (s : State) : (pop n s).ggeom = s.ggeom := rfl
@[simp] theorem pop_mgeom (n : Nat) (s : State) : (pop n s).mgeom = s.mgeom := rfl
@[simp] theorem pop_h2p (n : Nat) (s : State) : (pop n s).h2p = s.h2p := rfl
@[simp] theorem pop_p2h (n : Nat) (s : State) : (pop n s).p2h = s.p2h := rfl
@[simp] theorem pop_trace (n : Nat) (s : State) : (pop n s).trace = s.trace := rfl
@[simp] theorem pop_refused (n : Nat) (s : State) : (pop n s).refused = s.refused := rfl
@[simp] theorem pop_input (n : Nat) (s : State) : (pop n s).input = s.input := rfl

/-! ## `toSearch` -/

@[simp] theorem toSearch_cfg (s : State) : (toSearch s).cfg = s.cfg := rfl
@[simp] theorem toSearch_run (s : State) : (toSearch s).run = s.run := rfl
@[simp] theorem toSearch_mode (s : State) : (toSearch s).mode = s.mode := rfl
@[simp] theorem toSearch_site (s : State) : (toSearch s).site = .search := rfl
@[simp] theorem toSearch_fr (s : State) : (toSearch s).fr = s.fr := rfl
@[simp] theorem toSearch_win (s : State) : (toSearch s).win = s.win := rfl
@[simp] theorem toSearch_ggeom (s : State) : (toSearch s).ggeom = s.ggeom := rfl
@[simp] theorem toSearch_mgeom (s : State) : (toSearch s).mgeom = s.mgeom := rfl
@[simp] theorem toSearch_h2p (s : State) : (toSearch s).h2p = s.h2p := rfl
@[simp] theorem toSearch_p2h (s : State) : (toSearch s).p2h = s.p2h := rfl
@[simp] theorem toSearch_trace (s : State) : (toSearch s).trace = s.trace := rfl
@[simp] theorem toSearch_refused (s : State) : (toSearch s).refused = s.refused := rfl
@[simp] theorem toSearch_input (s : State) : (toSearch s).input = s.input := rfl

/-! ## `refuse` -/

@[simp] theorem refuse_cfg (r : RefuseReason) (s : State) : (refuse r s).cfg = s.cfg := rfl
@[simp] theorem refuse_run (r : RefuseReason) (s : State) : (refuse r s).run = s.run := rfl
@[simp] theorem refuse_mode (r : RefuseReason) (s : State) : (refuse r s).mode = s.mode := rfl
@[simp] theorem refuse_site (r : RefuseReason) (s : State) : (refuse r s).site = s.site := rfl
@[simp] theorem refuse_fr (r : RefuseReason) (s : State) : (refuse r s).fr = s.fr := rfl
@[simp] theorem refuse_win (r : RefuseReason) (s : State) : (refuse r s).win = s.win := rfl
@[simp] theorem refuse_ggeom (r : RefuseReason) (s : State) : (refuse r s).ggeom = s.ggeom := rfl
@[simp] theorem refuse_mgeom (r : RefuseReason) (s : State) : (refuse r s).mgeom = s.mgeom := rfl
@[simp] theorem refuse_h2p (r : RefuseReason) (s : State) : (refuse r s).h2p = s.h2p := rfl
@[simp] theorem refuse_p2h (r : RefuseReason) (s : State) : (refuse r s).p2h = s.p2h := rfl
@[simp] theorem refuse_trace (r : RefuseReason) (s : State) : (refuse r s).trace = s.trace := rfl
@[simp] theorem refuse_refused (r : RefuseReason) (s : State) : (refuse r s).refused = (match s.refused with | some r0 => some r0 | none => some r) := rfl
@[simp] theorem refuse_input (r : RefuseReason) (s : State) : (refuse r s).input = s.input := rfl

/-! ## `emitRecord` and `failCandidate` -/

@[simp] theorem emitRecord_cfg (k : Kind) (p : Option Prov) (g : Geom) (d : List Byte) (s : State) :
    (emitRecord k p g d s).cfg = s.cfg := rfl
@[simp] theorem emitRecord_run (k : Kind) (p : Option Prov) (g : Geom) (d : List Byte) (s : State) :
    (emitRecord k p g d s).run = s.run := rfl
@[simp] theorem emitRecord_mode (k : Kind) (p : Option Prov) (g : Geom) (d : List Byte) (s : State) :
    (emitRecord k p g d s).mode = s.mode := rfl
@[simp] theorem emitRecord_site (k : Kind) (p : Option Prov) (g : Geom) (d : List Byte) (s : State) :
    (emitRecord k p g d s).site = s.site := rfl
@[simp] theorem emitRecord_fr (k : Kind) (p : Option Prov) (g : Geom) (d : List Byte) (s : State) :
    (emitRecord k p g d s).fr = s.fr := rfl
@[simp] theorem emitRecord_win (k : Kind) (p : Option Prov) (g : Geom) (d : List Byte) (s : State) :
    (emitRecord k p g d s).win = s.win := rfl
@[simp] theorem emitRecord_ggeom (k : Kind) (p : Option Prov) (g : Geom) (d : List Byte) (s : State) :
    (emitRecord k p g d s).ggeom = s.ggeom := rfl
@[simp] theorem emitRecord_mgeom (k : Kind) (p : Option Prov) (g : Geom) (d : List Byte) (s : State) :
    (emitRecord k p g d s).mgeom = s.mgeom := rfl
@[simp] theorem emitRecord_h2p (k : Kind) (p : Option Prov) (g : Geom) (d : List Byte) (s : State) :
    (emitRecord k p g d s).h2p = s.h2p := rfl
@[simp] theorem emitRecord_p2h (k : Kind) (p : Option Prov) (g : Geom) (d : List Byte) (s : State) :
    (emitRecord k p g d s).p2h = s.p2h := rfl
@[simp] theorem emitRecord_trace (k : Kind) (p : Option Prov) (g : Geom) (d : List Byte) (s : State) :
    (emitRecord k p g d s).trace = s.trace ++ [.record (mkRecord k p g d), .event (.recordAccepted p k d.length g)] := by simp [emitRecord]
@[simp] theorem emitRecord_refused (k : Kind) (p : Option Prov) (g : Geom) (d : List Byte) (s : State) :
    (emitRecord k p g d s).refused = s.refused := rfl
@[simp] theorem emitRecord_input (k : Kind) (p : Option Prov) (g : Geom) (d : List Byte) (s : State) :
    (emitRecord k p g d s).input = s.input := rfl

@[simp] theorem failCandidate_cfg (e : Event) (s : State) : (failCandidate e s).cfg = s.cfg := rfl
@[simp] theorem failCandidate_run (e : Event) (s : State) : (failCandidate e s).run = s.run := rfl
@[simp] theorem failCandidate_mode (e : Event) (s : State) : (failCandidate e s).mode = s.mode := rfl
@[simp] theorem failCandidate_site (e : Event) (s : State) : (failCandidate e s).site = s.site := rfl
@[simp] theorem failCandidate_fr (e : Event) (s : State) : (failCandidate e s).fr = s.fr := rfl
@[simp] theorem failCandidate_win (e : Event) (s : State) : (failCandidate e s).win = (pop 1 s).win := rfl
@[simp] theorem failCandidate_ggeom (e : Event) (s : State) : (failCandidate e s).ggeom = s.ggeom := rfl
@[simp] theorem failCandidate_mgeom (e : Event) (s : State) : (failCandidate e s).mgeom = s.mgeom := rfl
@[simp] theorem failCandidate_h2p (e : Event) (s : State) : (failCandidate e s).h2p = s.h2p := rfl
@[simp] theorem failCandidate_p2h (e : Event) (s : State) : (failCandidate e s).p2h = s.p2h := rfl
@[simp] theorem failCandidate_trace (e : Event) (s : State) : (failCandidate e s).trace = s.trace ++ [.event e] := rfl
@[simp] theorem failCandidate_refused (e : Event) (s : State) : (failCandidate e s).refused = s.refused := rfl
@[simp] theorem failCandidate_input (e : Event) (s : State) : (failCandidate e s).input = s.input := rfl

/-! ## The ports of a longer trace -/

theorem capture_of_trace {s t : State} {outs : List Output} (h : t.trace = s.trace ++ outs) :
    t.capture = s.capture ++ outs.filterMap Output.capture? := by
  simp [State.capture, h]

theorem events_of_trace {s t : State} {outs : List Output} (h : t.trace = s.trace ++ outs) :
    t.events = s.events ++ outs.filterMap Output.event? := by
  simp [State.events, h]

theorem records_of_trace {s t : State} {outs : List Output} (h : t.trace = s.trace ++ outs) :
    t.records = s.records ++ outs.filterMap Output.record? := by
  simp [State.records, h]

theorem filterMap_capture_map_event (es : List Event) :
    (es.map Output.event).filterMap Output.capture? = [] := by
  induction es with
  | nil => rfl
  | cons e es ih => simp [Output.capture?]

/-- Refusing keeps the first reason (R44). -/
theorem refuse_refused_isSome (r : RefuseReason) (s : State) : (refuse r s).refused.isSome := by
  cases h : s.refused <;> simp [refuse, h]

end Sys2Proof.Machine
end

