-- ==== Sys2Proof/Laws/Window.lean ====
section
/-! SUPPORT. What POP, SKIP and PEEK do (41_framer_window.md R190 to R194, 40_operations.md R161). -/

namespace Sys2Proof.Machine

/-- A POP never leaves `eos` set on an empty window (R194). -/
theorem pop_empty_eos (n : Nat) (s : State) (h : (pop n s).win.buf = []) :
    (pop n s).win.eos = false := by
  have h' : s.win.buf.drop n = [] := h
  simp [h']

/-- A POP of one byte shortens a window that is not empty by one. -/
theorem length_pop_one (s : State) (h : s.win.buf ≠ []) :
    (pop 1 s).win.buf.length + 1 = s.win.buf.length := by
  have := List.length_pos_iff.mpr h
  simp
  omega

/-- A POP never sets `eos`. -/
theorem pop_eos_le (n : Nat) (s : State) (h : s.win.eos = false) : (pop n s).win.eos = false := by
  simp [h]

/-- SKIP pops one byte and emits at most a Skip event (R161). -/
theorem skip_spec (s : State) :
    ∃ outs, skip s = { pop 1 s with trace := s.trace ++ outs } ∧
      outs = match s.win.buf with
        | [] => []
        | e :: _ => [.event (.skip (some e.prov) e.byte)] := by
  unfold skip
  cases h : s.win.buf with
  | nil => exact ⟨[], by simp [pop], rfl⟩
  | cons e es => exact ⟨_, by simp [pop, emitEvent, emit, h], rfl⟩

@[simp] theorem peekResult_fst (s : State) (n : Nat) :
    (peekResult s n).1 = s.win.buf.head?.map Entry.prov := rfl

@[simp] theorem peekResult_snd (s : State) (n : Nat) :
    (peekResult s n).2 = (s.win.buf.take n).map Entry.byte := rfl

end Sys2Proof.Machine
end

