-- ==== Sys2Proof/Laws/Sequencer.lean ====
section
/-! SUPPORT. What the sequencer's work can do: one relation that holds of every evaluation, of the link
feed, of `act` and of `resume`, and the induction principle of `resume` (40_operations.md R156). -/

namespace Sys2Proof.Machine

theorem pop_pop_win (n m : Nat) (s : State) : (pop n (pop m s)).win = (pop (m + n) s).win := by
  simp only [pop_win, List.drop_drop]
  congr 1
  split <;> rename_i h
  · rfl
  · have h' : s.win.buf.drop m ≠ [] := by
      intro h0
      apply h
      rw [List.drop_eq_nil_iff] at h0 ⊢
      omega
    simp [h']

/-- The trace grows from `s` to `t`, and by no capture entry. -/
def Grows (s t : State) : Prop :=
  ∃ outs, t.trace = s.trace ++ outs ∧ outs.filterMap Output.capture? = []

theorem Grows.refl {s t : State} (h : t.trace = s.trace) : Grows s t := ⟨[], by simp [h], rfl⟩

theorem Grows.trans {s t u : State} (h : Grows s t) (g : Grows t u) : Grows s u := by
  obtain ⟨o, ho, hc⟩ := h
  obtain ⟨o', ho', hc'⟩ := g
  exact ⟨o ++ o', by rw [ho', ho, List.append_assoc], by simp [List.filterMap_append, hc, hc']⟩

theorem grows_emitEvent (e : Event) (s : State) : Grows s (emitEvent e s) := ⟨[.event e], rfl, rfl⟩

theorem grows_emitEvents (es : List Event) (s : State) : Grows s (emitEvents es s) :=
  ⟨es.map .event, rfl, filterMap_capture_map_event es⟩

theorem grows_emitRecord (k : Kind) (p : Option Prov) (g : Geom) (d : List Byte) (s : State) :
    Grows s (emitRecord k p g d s) :=
  ⟨_, emitRecord_trace k p g d s, rfl⟩

/-- What a piece of the sequencer's work leaves as it was and what it may change: the configuration,
the run state, the mode, the framer, the refusal and the input port stay; the window loses bytes at
its front only; the trace grows, and by no capture entry. -/
structure SeqWork (s t : State) : Prop where
  cfg     : t.cfg = s.cfg
  run     : t.run = s.run
  mode    : t.mode = s.mode
  fr      : t.fr = s.fr
  refused : t.refused = s.refused
  input   : t.input = s.input
  win     : ∃ n, t.win = (pop n s).win
  trace   : Grows s t

theorem SeqWork.trans {s t u : State} (h : SeqWork s t) (g : SeqWork t u) : SeqWork s u where
  cfg := g.cfg.trans h.cfg
  run := g.run.trans h.run
  mode := g.mode.trans h.mode
  fr := g.fr.trans h.fr
  refused := g.refused.trans h.refused
  input := g.input.trans h.input
  win := by
    obtain ⟨n, hn⟩ := h.win
    obtain ⟨m, hm⟩ := g.win
    refine ⟨n + m, ?_⟩
    rw [hm, ← pop_pop_win]
    simp only [pop_win, hn]
    rfl
  trace := h.trace.trans g.trace

/-- A POP after work that left the window alone. -/
theorem SeqWork.of_pop {s t : State} (n : Nat) (hcfg : t.cfg = s.cfg) (hrun : t.run = s.run)
    (hmode : t.mode = s.mode) (hfr : t.fr = s.fr) (href : t.refused = s.refused)
    (hin : t.input = s.input) (hwin : t.win = s.win)
    (htr : Grows s t) :
    SeqWork s (pop n t) :=
  ⟨hcfg, hrun, hmode, hfr, href, hin, ⟨n, by simp only [pop_win, hwin]⟩, htr⟩

theorem SeqWork.toSearch {s t : State} (h : SeqWork s t) : SeqWork s (toSearch t) :=
  ⟨h.cfg, h.run, h.mode, h.fr, h.refused, h.input, h.win, h.trace⟩

theorem SeqWork.setSite {s t : State} (h : SeqWork s t) (site : Site) :
    SeqWork s { t with site := site } :=
  ⟨h.cfg, h.run, h.mode, h.fr, h.refused, h.input, h.win, h.trace⟩

theorem seqWork_fail (e : Event) (s : State) : SeqWork s (failCandidate e s) :=
  .of_pop 1 rfl rfl rfl rfl rfl rfl rfl (grows_emitEvent e s)

theorem seqWork_skip (s : State) : SeqWork s (skip s) := by
  obtain ⟨outs, h, ho⟩ := skip_spec s
  rw [h]
  refine ⟨rfl, rfl, rfl, rfl, rfl, rfl, ⟨1, rfl⟩, outs, rfl, ?_⟩
  subst ho
  split <;> rfl

theorem seqWork_gcrAddrEval (p : Option Prov) (r : List Byte) (s : State) :
    SeqWork s (gcrAddrEval p r s) := by
  unfold gcrAddrEval
  dsimp only
  split_ifs
  · exact seqWork_fail _ _
  · exact seqWork_fail _ _
  · exact seqWork_fail _ _
  · exact .of_pop _ rfl rfl rfl rfl rfl rfl rfl ⟨[_], rfl, rfl⟩

theorem seqWork_gcrDataEval (p : Option Prov) (r : List Byte) (s : State) :
    SeqWork s (gcrDataEval p r s) := by
  unfold gcrDataEval
  dsimp only
  split
  · exact seqWork_fail _ _
  split
  · exact seqWork_fail _ _
  split
  · exact seqWork_fail _ _
  split
  · exact seqWork_fail _ _
  split
  · exact seqWork_fail _ _
  split
  · exact seqWork_fail _ _
  exact .of_pop _ rfl rfl rfl rfl rfl rfl rfl (grows_emitRecord ..)

theorem seqWork_mfmIndex (p : Option Prov) (s : State) : SeqWork s (mfmIndex p s) :=
  .of_pop _ rfl rfl rfl rfl rfl rfl rfl ⟨[_], rfl, rfl⟩

theorem seqWork_mfmAddrEval (p : Option Prov) (r : List Byte) (s : State) :
    SeqWork s (mfmAddrEval p r s) := by
  unfold mfmAddrEval
  split
  · exact seqWork_fail _ _
  split
  · exact seqWork_fail _ _
  exact .of_pop _ rfl rfl rfl rfl rfl rfl rfl ⟨[_], rfl, rfl⟩

theorem seqWork_mfmDataEval (p : Option Prov) (r : List Byte) (s : State) :
    SeqWork s (mfmDataEval p r s) := by
  unfold mfmDataEval
  split
  · exact seqWork_fail _ _
  split
  · exact seqWork_fail _ _
  exact .of_pop _ rfl rfl rfl rfl rfl rfl rfl (grows_emitRecord ..)

/-- Everything but the decoders and the trace is as it was, and the trace grows by no capture. -/
structure LinkWork (s t : State) : Prop where
  cfg     : t.cfg = s.cfg
  run     : t.run = s.run
  mode    : t.mode = s.mode
  site    : t.site = s.site
  fr      : t.fr = s.fr
  win     : t.win = s.win
  ggeom   : t.ggeom = s.ggeom
  mgeom   : t.mgeom = s.mgeom
  refused : t.refused = s.refused
  input   : t.input = s.input
  trace   : Grows s t

theorem linkWork_feedBoth (h p : FeedOut) (s : State) : LinkWork s (feedBoth h p s) :=
  ⟨rfl, rfl, rfl, rfl, rfl, rfl, rfl, rfl, rfl, rfl, ⟨_, rfl, filterMap_capture_map_event _⟩⟩

theorem linkWork_arbitrate (h p : FeedOut) (prov : Option Prov) (s : State) :
    LinkWork s (arbitrate h p prov s) := by
  unfold arbitrate
  split
  · exact ⟨rfl, rfl, rfl, rfl, rfl, rfl, rfl, rfl, rfl, rfl, grows_emitRecord ..⟩
  · exact ⟨rfl, rfl, rfl, rfl, rfl, rfl, rfl, rfl, rfl, rfl, grows_emitRecord ..⟩
  · split
    · exact ⟨rfl, rfl, rfl, rfl, rfl, rfl, rfl, rfl, rfl, rfl, grows_emitEvent ..⟩
    · exact ⟨rfl, rfl, rfl, rfl, rfl, rfl, rfl, rfl, rfl, rfl, .refl rfl⟩

/-- A feed of one byte leaves everything but the decoders and the trace as it was (R230). -/
theorem linkWork_linkFeed (b : Byte) (p : Option Prov) (s : State) :
    LinkWork s (linkFeed b p s) := by
  have h := linkWork_feedBoth (dcdFeed s.cfg .h2p s.h2p b p) (dcdFeed s.cfg .p2h s.p2h b p) s
  have g := linkWork_arbitrate (dcdFeed s.cfg .h2p s.h2p b p) (dcdFeed s.cfg .p2h s.p2h b p) p
    (feedBoth (dcdFeed s.cfg .h2p s.h2p b p) (dcdFeed s.cfg .p2h s.p2h b p) s)
  exact ⟨g.cfg.trans h.cfg, g.run.trans h.run, g.mode.trans h.mode, g.site.trans h.site,
    g.fr.trans h.fr, g.win.trans h.win, g.ggeom.trans h.ggeom, g.mgeom.trans h.mgeom,
    g.refused.trans h.refused, g.input.trans h.input, h.trace.trans g.trace⟩

theorem seqWork_actDcdByte (b : Byte) (s : State) : SeqWork s (actDcdByte b s) := by
  have h := linkWork_linkFeed b (peekResult s 1).1 s
  exact SeqWork.setSite (.of_pop 1 h.cfg h.run h.mode h.fr h.refused h.input h.win h.trace) .dcd

theorem seqWork_feedBytes (bs : List Byte) (s : State) (h : bs ≠ []) : SeqWork s (feedBytes bs s) := by
  induction bs generalizing s with
  | nil => exact absurd rfl h
  | cons b bs ih =>
    by_cases hb : bs = []
    · subst hb
      exact seqWork_actDcdByte b s
    · exact (seqWork_actDcdByte b s).trans (ih _ hb)

theorem seqWork_move (s : State) (site : Site) (h : s.win.buf ≠ []) :
    SeqWork s { s with site := site } :=
  ⟨rfl, rfl, rfl, rfl, rfl, rfl, ⟨0, by simp [h]⟩, .refl rfl⟩

theorem buf_ne_nil_of_peek {s : State} {n : Nat} {b : Byte} {r : List Byte}
    (h : (peekResult s n).2 = b :: r) : s.win.buf ≠ [] := by
  intro h0
  simp [h0] at h

theorem seqWork_actDcd (n : Nat) (s : State) : SeqWork s (actDcd (peekResult s n).2 s) := by
  unfold actDcd
  split
  · exact SeqWork.setSite (.of_pop 1 rfl rfl rfl rfl rfl rfl rfl (.refl rfl)) .dcd
  · exact seqWork_actDcdByte _ _

/-- `act` is sequencer work. -/
theorem seqWork_act (s : State) : SeqWork s (act s) := by
  unfold act
  dsimp only
  split
  · split
    · unfold actGcrSearch
      split_ifs with h h
      · exact seqWork_move s _ (buf_ne_nil_of_peek h)
      · exact seqWork_move s _ (buf_ne_nil_of_peek h)
      · exact (seqWork_skip s).toSearch
    · unfold actMfmSearch
      split_ifs with h h h
      · exact (seqWork_mfmIndex _ s).toSearch
      · exact seqWork_move s _ (buf_ne_nil_of_peek h)
      · exact seqWork_move s _ (buf_ne_nil_of_peek h)
      · exact (seqWork_skip s).toSearch
    · exact seqWork_actDcd _ s
  · exact (seqWork_gcrAddrEval _ _ s).toSearch
  · exact (seqWork_gcrDataEval _ _ s).toSearch
  · exact (seqWork_mfmAddrEval _ _ s).toSearch
  · exact (seqWork_mfmDataEval _ _ s).toSearch
  · exact seqWork_actDcd _ s

/-- What one `act` keeps, the loop of RESUME keeps. -/
theorem resumeFor_induct {P : State → Prop} (hact : ∀ s, P s → P (act s)) (n : Nat) :
    ∀ s, P s → P (resumeFor n s) := by
  induction n with
  | zero => exact fun s h => h
  | succ n ih =>
    intro s h
    unfold resumeFor
    split_ifs
    · exact hact s h
    · exact ih _ (hact s h)

/-- What one `act` keeps, RESUME keeps (R156). -/
theorem resume_induct {P : State → Prop} (hact : ∀ s, P s → P (act s)) (s : State) (h : P s) :
    P (resume s) :=
  resumeFor_induct hact _ s h

/-- RESUME does at least one `act`. -/
theorem resume_cases {Q : State → Prop} (hone : ∀ s, Q (act s)) (s : State) : Q (resume s) := by
  have hall : ∀ n s, Q (resumeFor (n + 1) s) := by
    intro n
    induction n with
    | zero =>
      intro s
      unfold resumeFor
      split_ifs
      · exact hone s
      · exact hone s
    | succ n ih =>
      intro s
      unfold resumeFor
      split_ifs
      · exact hone s
      · exact ih _
  exact hall _ s

/-- `resume` is sequencer work. -/
theorem seqWork_resume (s : State) : SeqWork s (resume s) := by
  have h : ∀ n s, SeqWork s (resumeFor (n + 1) s) := by
    intro n
    induction n with
    | zero =>
      intro s
      unfold resumeFor
      split_ifs <;> exact seqWork_act s
    | succ n ih =>
      intro s
      unfold resumeFor
      split_ifs
      · exact seqWork_act s
      · exact (seqWork_act s).trans (ih _)
  exact h _ s

end Sys2Proof.Machine
end

