-- ==== Sys2Proof/Laws/Eval.lean ====
section
/-! SUPPORT. What the evaluation of a candidate can end in: a failed candidate, or the one success of its
kind (43_gcr.md R266, R275; 44_mfm.md R325, R328; 60_exceptions.md R362). -/

namespace Sys2Proof.Machine

/-- An address-mark candidate fails, or writes the geometry with its event and is popped whole. -/
theorem gcrAddrEval_cases (p : Option Prov) (r : List Byte) (s : State) :
    (∃ e, (∀ q tr sec side fmt, e ≠ .gcrAddressMark q tr sec side fmt) ∧
      gcrAddrEval p r s = failCandidate e s) ∨
    ∃ g : GcrGeom, gcrAddrEval p r s =
      pop lenGcrAddr (emitEvent (.gcrAddressMark p g.track g.sector g.side g.format)
        { s with ggeom := some g }) := by
  unfold gcrAddrEval
  dsimp only
  split_ifs
  · exact .inl ⟨_, by simp, rfl⟩
  · exact .inl ⟨_, by simp, rfl⟩
  · exact .inl ⟨_, by simp, rfl⟩
  · exact .inr ⟨⟨_, _, _, _⟩, rfl⟩

/-- A data-mark candidate fails, or its sector is the geometry's and its record is emitted and popped. -/
theorem gcrDataEval_cases (p : Option Prov) (r : List Byte) (s : State) :
    (∃ e, (∀ k n g, e ≠ .recordAccepted p k n g) ∧ gcrDataEval p r s = failCandidate e s) ∨
    ∃ (g : GcrGeom) (v : List Nibble), lenGcrData ≤ r.length ∧ s.ggeom = some g ∧ v.length = 703 ∧
      (denib (v.take 699)).2 = none ∧
      gcrDataEval p r s = pop lenGcrData
        (emitRecord .gcrData p (.gcr g) (cksum s.cfg.gcrAdd (denib (v.take 699)).1).1 s) := by
  unfold gcrDataEval
  dsimp only
  split
  · exact .inl ⟨_, by simp, rfl⟩
  rename_i hlen
  split
  · exact .inl ⟨_, by simp, rfl⟩
  split
  · exact .inl ⟨_, by simp, rfl⟩
  rename_i hbad
  split
  · exact .inl ⟨_, by simp, rfl⟩
  rename_i hden
  split
  · exact .inl ⟨_, by simp, rfl⟩
  split
  · exact .inl ⟨_, by simp, rfl⟩
  rename_i hsec
  right
  cases hg : s.ggeom with
  | none => simp [hg] at hsec
  | some g =>
    have hv : (nibbles s.cfg (slice r 4 703)).length = 703 := by
      rw [length_nibbles _ _ (not_not.mp hbad), length_slice]
      simp [lenGcrData] at hlen
      omega
    exact ⟨g, _, not_lt.mp hlen, rfl, hv, hden, rfl⟩

/-- An MFM address-mark candidate fails, or writes the geometry with its event and is popped whole. -/
theorem mfmAddrEval_cases (p : Option Prov) (r : List Byte) (s : State) :
    (∃ e, (∀ q tr side sec z, e ≠ .mfmAddressMark q tr side sec z) ∧
      mfmAddrEval p r s = failCandidate e s) ∨
    ∃ g : MfmGeom, crc r = 0 ∧ mfmAddrEval p r s =
      pop lenMfmAddr (emitEvent (.mfmAddressMark p g.track g.side g.sector (mfmSize g.sizeCode))
        { s with mgeom := some g }) := by
  unfold mfmAddrEval
  split
  · exact .inl ⟨_, by simp, rfl⟩
  split
  · exact .inl ⟨_, by simp [crcMismatchEvent], rfl⟩
  · rename_i h
    exact .inr ⟨⟨_, _, _, _⟩, not_not.mp h, rfl⟩

/-- An MFM data-mark candidate fails, or its 512 bytes are emitted and it is popped whole. -/
theorem mfmDataEval_cases (p : Option Prov) (r : List Byte) (s : State) :
    (∃ e, (∀ k n g, e ≠ .recordAccepted p k n g) ∧ mfmDataEval p r s = failCandidate e s) ∨
    (lenMfmData ≤ r.length ∧ crc r = 0 ∧ mfmDataEval p r s =
      pop lenMfmData (emitRecord .mfmData p (mfmGeom s.mgeom) (slice r 4 512) s)) := by
  unfold mfmDataEval
  split
  · exact .inl ⟨_, by simp, rfl⟩
  rename_i hlen
  split
  · exact .inl ⟨_, by simp [crcMismatchEvent], rfl⟩
  · rename_i h
    exact .inr ⟨not_lt.mp hlen, not_not.mp h, rfl⟩

end Sys2Proof.Machine
end

