-- ==== Sys2Proof/Laws/PerInstr.lean ====
section
/-! SUPPORT. The family `TableMatch` of LAWS.json: every instruction's encoding carries the fixed bits of
its row of spec/opcode_table.json, under the row's mask (30_encoding.md R111 to R114, R120, R130). -/

namespace Sys2Proof.Laws

/-- The `(bytes, match, mask)` of the instruction's row; input words count as no bytes. -/
def tableRow : Instr → Nat × Nat × Nat
  | .idle => (0, 0x000, 0x3FF)
  | .byte _ => (0, 0x100, 0x300)
  | .reset _ => (0, 0x200, 0x3FC)
  | .stop => (0, 0x300, 0x3FF)
  | .gcrAddressMark _ => (3, 0xD5AA96, 0xFFFFFF)
  | .gcrDataMark _ => (3, 0xD5AAAD, 0xFFFFFF)
  | .mfmIndexMark => (4, 0xC2C2C2FC, 0xFFFFFFFF)
  | .mfmAddressMark _ => (4, 0xA1A1A1FE, 0xFFFFFFFF)
  | .mfmDataMark _ => (4, 0xA1A1A1FB, 0xFFFFFFFF)
  | .dcdFrame _ => (1, 0xAA, 0xFF)
  | .dcdReply _ _ => (1, 0xAA, 0xFF)

/-- The number that a byte string is in the table: its first byte is the most significant. -/
def numberOf (bs : List Byte) : Nat := bs.foldl (fun n b => 256 * n + b.toNat) 0

/-- The encoding carries the row's fixed bits. -/
def TableMatch.Statement (i : Instr) : Prop :=
  match encode i with
  | .word w => (tableRow i).1 = 0 ∧ w.toNat &&& (tableRow i).2.2 = (tableRow i).2.1
  | .record _ bs => (tableRow i).1 ≤ bs.length ∧
      numberOf (bs.take (tableRow i).1) &&& (tableRow i).2.2 = (tableRow i).2.1

theorem TableMatch.idle : TableMatch.Statement .idle := ⟨rfl, by decide⟩

theorem TableMatch.byte (b : Byte) : TableMatch.Statement (.byte b) := by
  refine ⟨rfl, ?_⟩
  revert b
  decide

theorem TableMatch.reset (m : Mode) : TableMatch.Statement (.reset m) := by
  refine ⟨rfl, ?_⟩
  cases m <;> decide

theorem TableMatch.stop : TableMatch.Statement .stop := ⟨rfl, by decide⟩

theorem TableMatch.gcrAddressMark (body : List Byte) :
    TableMatch.Statement (.gcrAddressMark body) :=
  ⟨by simp [tableRow, Machine.sigGcrAddr], by simp [numberOf, tableRow, Machine.sigGcrAddr]⟩

theorem TableMatch.gcrDataMark (body : List Byte) : TableMatch.Statement (.gcrDataMark body) :=
  ⟨by simp [tableRow, Machine.sigGcrData], by simp [numberOf, tableRow, Machine.sigGcrData]⟩

theorem TableMatch.mfmIndexMark : TableMatch.Statement .mfmIndexMark := ⟨by decide, rfl⟩

theorem TableMatch.mfmAddressMark (body : List Byte) :
    TableMatch.Statement (.mfmAddressMark body) :=
  ⟨by simp [tableRow, Machine.sigMfmAddr], by simp [numberOf, tableRow, Machine.sigMfmAddr]⟩

theorem TableMatch.mfmDataMark (body : List Byte) : TableMatch.Statement (.mfmDataMark body) :=
  ⟨by simp [tableRow, Machine.sigMfmData], by simp [numberOf, tableRow, Machine.sigMfmData]⟩

theorem TableMatch.dcdFrame (body : List Byte) : TableMatch.Statement (.dcdFrame body) :=
  ⟨by simp [tableRow], by simp [numberOf, tableRow, Machine.syncByte]⟩

theorem TableMatch.dcdReply (seed : Bits7) (body : List Byte) :
    TableMatch.Statement (.dcdReply seed body) :=
  ⟨by simp [tableRow], by simp [numberOf, tableRow, Machine.syncByte]⟩

end Sys2Proof.Laws
end

