-- ==== Sys2Proof/Laws/Step.lean ====
section
/-! SUPPORT. What the four input words and a step can do (40_operations.md R150 to R155): one inversion
lemma for each. -/

namespace Sys2Proof.Machine

/-- An input word decodes to one of its four instructions (R110). -/
theorem decodeWord_cases {w : InputWord} {i : Instr} (h : decodeWord w = .ok i) :
    i = .idle ∨ (∃ b, i = .byte b) ∨ (∃ m, i = .reset m) ∨ i = .stop := by
  unfold decodeWord at h
  dsimp only at h
  split at h
  · split_ifs at h
    exact .inl (Except.ok.inj h).symm
  · exact .inr (.inl ⟨_, (Except.ok.inj h).symm⟩)
  · split_ifs at h
    split at h
    · exact .inr (.inr (.inl ⟨_, (Except.ok.inj h).symm⟩))
    · simp at h
  · split_ifs at h
    exact .inr (.inr (.inr (Except.ok.inj h).symm))

/-- No instruction faults, and none is refused by the model (R16, R360). -/
theorem exec_next (i : Instr) (s : State) : ∃ t, exec i s = .next t := by
  cases i <;> exact ⟨_, rfl⟩

/-- What a step does: it serves the window, or holds at an empty input port, or runs the word it reads,
or refuses it. -/
theorem step_cases {s t : State} (h : step s = .next t) :
    (s.busy = true ∧ ((∃ i, fetchRecord s = some i ∧ exec i s = .next t) ∨
      (fetchRecord s = none ∧ t = act s))) ∨
    (s.busy = false ∧ ((s.input = [] ∧ t = s) ∨
      ∃ w ws, s.input = w :: ws ∧
        ((∃ i, decodeWord w = .ok i ∧ exec i { s with input := ws } = .next t) ∨
         (∃ r, decodeWord w = .error r ∧ t = refuseReserved r { s with input := ws })))) := by
  unfold step at h
  split_ifs at h with hb
  · refine .inl ⟨hb, ?_⟩
    unfold stepServe at h
    split at h
    · exact .inl ⟨_, by assumption, h⟩
    · exact .inr ⟨by assumption, by simpa using h.symm⟩
  · refine .inr ⟨by simpa using hb, ?_⟩
    unfold stepRead at h
    split at h
    · exact .inl ⟨by assumption, by simpa using h.symm⟩
    · refine .inr ⟨_, _, by assumption, ?_⟩
      split at h
      · exact .inl ⟨_, by assumption, h⟩
      · exact .inr ⟨_, by assumption, by simpa using h.symm⟩

/-- A refused word changes `refused` only (R150). -/
theorem refuseReserved_eq (r : ReservedWord) (s : State) :
    ∃ q, refuseReserved r s = refuse q s := by
  cases r <;> exact ⟨_, rfl⟩

/-- Outside a session a word is refused; inside one it runs (R152, R153). -/
theorem whenRunning_cases (f : State → State) (s : State) :
    (s.run = .running ∧ whenRunning f s = f s) ∨
    (s.run ≠ .running ∧ ∃ q, whenRunning f s = refuse q s) := by
  unfold whenRunning
  cases h : s.run
  · exact .inr ⟨by simp, _, rfl⟩
  · exact .inl ⟨rfl, rfl⟩
  · exact .inr ⟨by simp, _, rfl⟩

/-! ## Reading a byte -/

@[simp] theorem readByte_cfg (b : Byte) (s : State) : (readByte b s).cfg = s.cfg := rfl
@[simp] theorem readByte_run (b : Byte) (s : State) : (readByte b s).run = s.run := rfl
@[simp] theorem readByte_mode (b : Byte) (s : State) : (readByte b s).mode = s.mode := rfl
@[simp] theorem readByte_site (b : Byte) (s : State) : (readByte b s).site = s.site := rfl
@[simp] theorem readByte_fr (b : Byte) (s : State) :
    (readByte b s).fr = (tagByte s.cfg s.mode s.fr b).2 := rfl
@[simp] theorem readByte_win (b : Byte) (s : State) :
    (readByte b s).win = ⟨s.win.buf ++ [⟨b, (tagByte s.cfg s.mode s.fr b).1⟩], s.win.eos⟩ := rfl
@[simp] theorem readByte_ggeom (b : Byte) (s : State) : (readByte b s).ggeom = s.ggeom := rfl
@[simp] theorem readByte_mgeom (b : Byte) (s : State) : (readByte b s).mgeom = s.mgeom := rfl
@[simp] theorem readByte_h2p (b : Byte) (s : State) : (readByte b s).h2p = s.h2p := rfl
@[simp] theorem readByte_p2h (b : Byte) (s : State) : (readByte b s).p2h = s.p2h := rfl
@[simp] theorem readByte_trace (b : Byte) (s : State) :
    (readByte b s).trace = s.trace ++ [.capture ⟨(tagByte s.cfg s.mode s.fr b).1.txn,
      (tagByte s.cfg s.mode s.fr b).1.dir, b⟩] := rfl
@[simp] theorem readByte_refused (b : Byte) (s : State) : (readByte b s).refused = s.refused := rfl
@[simp] theorem readByte_input (b : Byte) (s : State) : (readByte b s).input = s.input := rfl

/-- FRAMER_IDLE changes `inTxn` at most (R184). -/
theorem framerIdle_eq (s : State) :
    framerIdle s = { s with fr := { s.fr with inTxn := s.fr.inTxn && decide (s.mode ≠ .dcd) } } := by
  cases s with
  | mk cfg run mode =>
    cases mode <;> simp [framerIdle]

/-- BYTE reads, and then the sequencer may work (R155). -/
theorem opByte_work (b : Byte) (s : State) :
    opByte b s = readByte b s ∨ SeqWork (readByte b s) (opByte b s) := by
  unfold opByte
  dsimp only
  split_ifs
  · exact .inr (seqWork_resume _)
  · exact .inl rfl

/-- IDLE ends a DCD transaction and sets `eos`, and then the sequencer works (R154). -/
theorem opIdle_work (s : State) :
    SeqWork { framerIdle s with win := { s.win with eos := true } } (opIdle s) := by
  have h : (framerIdle s).win = s.win := by rw [framerIdle_eq]
  unfold opIdle
  dsimp only
  rw [h]
  exact seqWork_resume _

end Sys2Proof.Machine
end

