-- ==== Sys2Proof/Tests/Slice0.lean ====
section
/-! SUPPORT. Tests on small cases, their expected results from the spec's rules and from
spec/95_test_vectors.md, and for every statement that has hypotheses a witness that meets them. -/

namespace Sys2Proof.Tests

set_option Elab.async false

open Sys2Proof.Machine

/-! ## Helpers -/

/-- `p` holds of the next state, and there is one. -/
def nextIs (o : Host.Outcome State Fault Refusal) (p : State → Bool) : Bool :=
  match o with
  | .next t => p t
  | .fault _ => false
  | .refused _ => false

/-- A running session at `site` with `bs` in its window, tagged as one transaction from offset 0. -/
def at' (m : Mode) (site : Site) (bs : List Byte) : State := placeRecord m site bs State.reset

/-- The provenance of byte `off` of a GCR transaction 0 whose bytes have bit 7 set. -/
def gp (off : Nat) : Option Prov := some ⟨0, some 1, off⟩

/-- The provenance of byte `off` of transaction 0 in MFM or DCD mode. -/
def mp (off : Nat) : Option Prov := some ⟨0, none, off⟩

/-- A body of a data mark whose 703 symbols are all `96`, the symbol of 0 (R262, R290). -/
def zeroBody : List Byte := List.replicate 704 0x96 ++ [0xDE, 0xAA]

/-- The wire bytes of R238 after the sync byte, and the payload. -/
def wire238 : List Byte :=
  [0x82, 0x81, 0x81, 0x80, 0xFF, 0xFF, 0x80, 0xD5, 0xAA, 0xCA] ++
  [0x90, 0xA0, 0xB0, 0xC0, 0xD0, 0xE0, 0xB2, 0xC0]

def payload238 : List (List Byte) :=
  [[0x01, 0x80, 0x7F, 0xFF, 0x00, 0x55, 0xAA], [0x10, 0x20, 0x30, 0x40, 0x50, 0x60, 0xB2]]

/-! ## Well-formedness: each check refuses an ill-formed term -/

theorem test_wf_gcrAddressMark_too_long :
    Instr.wf (.gcrAddressMark (List.replicate 8 0x96)) = false := by decide
theorem test_wf_gcrDataMark_too_long :
    Instr.wf (.gcrDataMark (List.replicate 707 0x96)) = false := by decide +kernel
theorem test_wf_mfmAddressMark_too_long :
    Instr.wf (.mfmAddressMark [5, 0, 3, 2, 0x10, 0x48, 0]) = false := by decide
theorem test_wf_mfmDataMark_too_long :
    Instr.wf (.mfmDataMark (List.replicate 515 0)) = false := by decide +kernel
theorem test_wf_dcdFrame_trailing_byte :
    Instr.wf (.dcdFrame [0x80, 0x80, 0x00]) = false := by decide
theorem test_wf_dcdFrame_no_resync :
    Instr.wf (.dcdFrame [0x82, 0x80, 1, 2, 3, 4, 5, 6, 7, 0x00, 0x55]) = false := by decide
theorem test_wf_dcdReply_seed_zero : Instr.wf (.dcdReply 0 []) = false := by decide
theorem test_wf_dcdReply_trailing_byte :
    Instr.wf (.dcdReply 1 [1, 2, 3, 4, 5, 6, 7, 0x80, 0x55]) = false := by decide
theorem test_wf_dcdReply_whole :
    Instr.wf (.dcdReply 1 [1, 2, 3, 4, 5, 6, 7, 0x80]) = true := by decide

/-! ## Decoding, from words written out bit by bit (R111 to R115, R120 to R133) -/

theorem test_decode_idle : decodeWord 0b0000000000#10 = .ok .idle := by decide
theorem test_decode_byte : decodeWord 0b0111010101#10 = .ok (.byte 0xD5) := by decide
theorem test_decode_reset_dcd : decodeWord 0b1000000000#10 = .ok (.reset .dcd) := by decide
theorem test_decode_reset_gcr : decodeWord 0b1000000001#10 = .ok (.reset .gcr) := by decide
theorem test_decode_reset_mfm : decodeWord 0b1000000010#10 = .ok (.reset .mfm) := by decide
theorem test_decode_stop : decodeWord 0b1100000000#10 = .ok .stop := by decide
theorem test_decode_reserved_mode : decodeWord 0b1000000011#10 = .error .reservedMode := by decide
theorem test_decode_reserved_before_mode : decodeWord 0b1000000111#10 = .error .reservedBits := by
  decide
theorem test_decode_reserved_idle : decodeWord 0b0000000001#10 = .error .reservedBits := by decide
theorem test_decode_reserved_stop : decodeWord 0b1110000000#10 = .error .reservedBits := by decide

theorem test_decode_gcrAddressMark :
    decode (.record .gcr [0xD5, 0xAA, 0x96, 0x9A, 0x9B, 0xD7, 0xD9, 0x9A, 0xDE, 0xAA]) =
      .ok (.gcrAddressMark [0x9A, 0x9B, 0xD7, 0xD9, 0x9A, 0xDE, 0xAA]) := by decide
theorem test_decode_gcrDataMark :
    decode (.record .gcr ([0xD5, 0xAA, 0xAD] ++ zeroBody)) = .ok (.gcrDataMark zeroBody) := by
  decide +kernel
theorem test_decode_mfmIndexMark :
    decode (.record .mfm [0xC2, 0xC2, 0xC2, 0xFC]) = .ok .mfmIndexMark := by decide
theorem test_decode_mfmAddressMark :
    decode (.record .mfm [0xA1, 0xA1, 0xA1, 0xFE, 0x05, 0x00, 0x03, 0x02, 0x10, 0x48]) =
      .ok (.mfmAddressMark [0x05, 0x00, 0x03, 0x02, 0x10, 0x48]) := by decide
theorem test_decode_mfmDataMark :
    decode (.record .mfm ([0xA1, 0xA1, 0xA1, 0xFB] ++ List.replicate 514 0x00)) =
      .ok (.mfmDataMark (List.replicate 514 0x00)) := by decide +kernel
theorem test_decode_dcdFrame :
    decode (.record (.dcd none) (0xAA :: wire238)) = .ok (.dcdFrame wire238) := by decide
theorem test_decode_dcdReply :
    decode (.record (.dcd (some 1)) [0xAA, 0x81, 0x80, 0x80, 0x80, 0x80, 0x80, 0xFF, 0x81]) =
      .ok (.dcdReply 1 [0x81, 0x80, 0x80, 0x80, 0x80, 0x80, 0xFF, 0x81]) := by decide
theorem test_decode_no_signature : decode (.record .gcr [0xD5, 0xAA, 0x97]) = .error .noSignature := by
  decide
theorem test_decode_trailing :
    decode (.record .mfm [0xC2, 0xC2, 0xC2, 0xFC, 0x4E]) = .error .trailingBytes := by decide
theorem test_decodeTableWord_byte : decodeTableWord 16 0x1AA = some (.byte 0xAA) := by decide
theorem test_decodeTableWord_too_wide : decodeTableWord 16 0x400 = none := by decide
theorem test_decodeTableWord_mfmIndexMark : decodeTableWord 32 0xC2C2C2FC = some .mfmIndexMark := by
  decide

/-! ## The operand forms (95_test_vectors.md S1 to S3, 2.3 to 2.5) -/

theorem test_nibTable_is_built_from_the_symbols :
    defaultNibTable = (List.range 128).map (fun k =>
      (defaultSymbols.findIdx? (fun e => low7 e = BitVec.ofNat 7 k)).map (BitVec.ofNat 6)) := by
  decide +kernel
theorem test_lookup_ignores_bit_7 :
    lookup defaultConfig 0x16 = some 0 ∧ lookup defaultConfig 0xAD = some 0x0B ∧
      lookup defaultConfig 0x80 = none := by decide
theorem test_denib_full_run : denib [0x2D, 1, 2, 3] = ([0x81, 0xC2, 0x43], none) := by decide
theorem test_denib_error : denib [0x31, 7] = ([0xC7], some (1, 1)) := by decide
theorem test_cksum_short_group :
    cksum .mod256 [1, 2, 3, 4, 5] = ([1, 3, 0, 4, 0], ⟨5, 3, 0⟩) := by decide
theorem test_cksum_chained :
    cksum .chained [0x80, 0x80, 0x80, 0x80, 0x80, 0x80] =
      ([0x80, 0x00, 0x80, 0x81, 0x82, 0x03], ⟨0x02, 0x83, 0x04⟩) := by decide
theorem test_crc_check_value :
    crc [0x31, 0x32, 0x33, 0x34, 0x35, 0x36, 0x37, 0x38, 0x39] = 0x29B1 := by decide
theorem test_crc_of_signature : crc [0xA1, 0xA1, 0xA1, 0xFE] = 0xB230 := by decide
theorem test_carrier_slot_order :
    assembleGroup defaultConfig .h2p [0x01, 0x00, 0x7F, 0x7F, 0x00, 0x55, 0x2A] 0xCA =
      [0x01, 0x80, 0x7F, 0xFF, 0x00, 0x55, 0xAA] := by decide
theorem test_carrier_msbFirst :
    assembleGroup { defaultConfig with p2hOrder := .msbFirst } .p2h (List.replicate 7 0) 0x01 =
      [0, 0, 0, 0, 0, 0, 0x80] := by decide
theorem test_asmGcrAddr_is_R273 :
    asmGcrAddr 66 3 1 0x22 = [0xD5, 0xAA, 0x96, 0x9A, 0x9B, 0xD7, 0xD9, 0x9A, 0xDE, 0xAA] := by decide
theorem test_asmDcdFrame_is_R238 : asmDcdFrame payload238 1 [true, true] = 0xAA :: wire238 := by decide
theorem test_asmMfmAddr_is_R325 :
    asmMfmAddr 5 0 3 2 = [0xA1, 0xA1, 0xA1, 0xFE, 0x05, 0x00, 0x03, 0x02, 0x10, 0x48] := by decide

/-! ## Single steps -/

/-- R154's example: the IDLE of `RESET GCR; BYTES D5 AA AD; IDLE`. -/
theorem test_idle_truncates :
    nextIs (exec .idle (at' .gcr .gcrData [0xD5, 0xAA, 0xAD])) (fun t =>
      t.events == [.truncated (gp 0) .gcrData 3, .skip (gp 1) 0xAA, .skip (gp 2) 0xAD] &&
      t.win == ⟨[], false⟩ && t.site == .search) = true := by decide

/-- `RESET MFM; IDLE`: no event, and `eos` false after the step (2.2). -/
theorem test_idle_on_idle_bus :
    nextIs (exec .idle (at' .mfm .search [])) (fun t => t == at' .mfm .search []) = true := by
  decide

/-- The last byte of `RESET GCR; BYTES FF FF 00 96` (R182). -/
theorem test_byte_opens_a_gcr_transaction :
    nextIs (exec (.byte 0x96) { at' .gcr .search [] with fr := ⟨2, 1, true, 0, 1⟩ }) (fun t =>
      t.fr == ⟨3, 2, true, 1, 1⟩ && t.capture == [⟨2, some 1, 0x96⟩] && t.events == []) = true := by
  decide

/-- R324's example: the fifth byte of `RESET MFM; BYTES 4E C2 C2 C2 FC`, after the Skip of `4E`. -/
theorem test_byte_completes_an_index_mark :
    nextIs (exec (.byte 0xFC)
        { at' .mfm .search [0xC2, 0xC2, 0xC2] with fr := ⟨0, 0, false, 0, 3⟩ }) (fun t =>
      t.events == [.mfmIndexMark (mp 0)] && t.win == ⟨[], false⟩ && t.fr.off == 4) = true := by
  decide

/-- R151's example: `RESET GCR`, the word `0x201`, from power-on. -/
theorem test_reset_gcr :
    nextIs (step { State.reset with input := [0x201] }) (fun t =>
      t.run == .running && t.mode == .gcr && t.site == .search && t.trace == [] &&
      t.refused == none) = true := by decide

/-- `0x203` from power-on is refused with ReservedMode (2.1). -/
theorem test_reset_reserved_mode :
    nextIs (step { State.reset with input := [0x203] }) (fun t =>
      t == { State.reset with refused := some .reservedMode }) = true := by decide

theorem test_stop :
    nextIs (exec .stop (at' .mfm .search [0xA1])) (fun t =>
      t == { at' .mfm .search [0xA1] with run := .stopped }) = true := by decide

/-- A byte after STOP is refused with AfterStop (R153's example). -/
theorem test_stop_then_byte :
    nextIs (step { at' .mfm .search [0xA1] with run := .stopped, input := [0x1A1] }) (fun t =>
      t.refused == some .afterStop && t.trace == []) = true := by decide

/-- R273, first row. -/
theorem test_gcrAddressMark_accepted :
    nextIs (exec (.gcrAddressMark [0x9A, 0x9B, 0xD7, 0xD9, 0x9A, 0xDE, 0xAA])
        (at' .gcr .gcrAddr [0xD5, 0xAA, 0x96, 0x9A, 0x9B, 0xD7, 0xD9, 0x9A, 0xDE, 0xAA])) (fun t =>
      t.events == [.gcrAddressMark (gp 0) 66 3 1 0x22] && t.ggeom == some ⟨66, 3, 1, 0x22⟩ &&
      t.win == ⟨[], false⟩ && t.site == .search) = true := by decide

/-- R273, last row: both INVALID bytes are listed, and one byte is popped. -/
theorem test_gcrAddressMark_invalid_symbols :
    nextIs (exec (.gcrAddressMark [0x9A, 0xD5, 0xD7, 0x80, 0x9A, 0xDE, 0xAA])
        (at' .gcr .gcrAddr [0xD5, 0xAA, 0x96, 0x9A, 0xD5, 0xD7, 0x80, 0x9A, 0xDE, 0xAA])) (fun t =>
      t.events == [.invalidSymbol (gp 0) .gcrAddr [0xD5, 0x80]] && t.ggeom == none &&
      t.win.buf.length == 9) = true := by decide

/-- R290, no geometry: the zero payload's data mark is rejected by its sector. -/
theorem test_gcrDataMark_without_geometry :
    nextIs (exec (.gcrDataMark zeroBody) (at' .gcr .gcrData [0xD5])) (fun t =>
      t.events == [.sectorMismatch (gp 0) 0 none] && t.records == []) = true := by decide +kernel

/-- The same with its sector's geometry delivers 524 zero bytes (R288). -/
theorem test_gcrDataMark_delivered :
    nextIs (exec (.gcrDataMark zeroBody)
        { at' .gcr .gcrData [0xD5] with ggeom := some ⟨66, 0, 1, 0x22⟩ }) (fun t =>
      t.records == [⟨.gcrData, some 0, .bit 1, some 0, .gcr ⟨66, 0, 1, 0x22⟩,
        List.replicate 524 0⟩]) = true := by decide +kernel

theorem test_mfmIndexMark :
    nextIs (step (at' .mfm .search [0xC2, 0xC2, 0xC2, 0xFC])) (fun t =>
      t.events == [.mfmIndexMark (mp 0)] && t.mgeom == none && t.win == ⟨[], false⟩) = true := by
  decide

/-- R325's example. -/
theorem test_mfmAddressMark_accepted :
    nextIs (exec (.mfmAddressMark [0x05, 0x00, 0x03, 0x02, 0x10, 0x48])
        (at' .mfm .mfmAddr [0xA1, 0xA1, 0xA1, 0xFE, 0x05, 0x00, 0x03, 0x02, 0x10, 0x48])) (fun t =>
      t.events == [.mfmAddressMark (mp 0) 5 0 3 512] && t.mgeom == some ⟨5, 0, 3, 2⟩) = true := by
  decide

/-- R333, the CRC failure. -/
theorem test_mfmAddressMark_crc :
    nextIs (exec (.mfmAddressMark [0x05, 0x00, 0x04, 0x02, 0x10, 0x48])
        (at' .mfm .mfmAddr [0xA1, 0xA1, 0xA1, 0xFE, 0x05, 0x00, 0x04, 0x02, 0x10, 0x48])) (fun t =>
      t.events == [.crcMismatch (mp 0) .mfmAddr 0x89DF 0x1048] && t.mgeom == none) = true := by
  decide

/-- R333: with a zero payload the data mark's CRC bytes are `DA 6E`. -/
theorem test_mfmDataMark_delivered :
    nextIs (exec (.mfmDataMark (List.replicate 512 0 ++ [0xDA, 0x6E]))
        { at' .mfm .mfmData [0xA1] with mgeom := some ⟨5, 0, 3, 2⟩ }) (fun t =>
      t.records == [⟨.mfmData, some 0, .none, some 0, .mfm ⟨5, 0, 3, 2⟩, List.replicate 512 0⟩]) =
        true := by decide +kernel

theorem test_mfmDataMark_truncated :
    nextIs (exec (.mfmDataMark [1, 2]) (at' .mfm .mfmData [0xA1, 0xA1, 0xA1, 0xFB, 1, 2])) (fun t =>
      t.events == [.truncated (mp 0) .mfmData 6] && t.win.buf.length == 5) = true := by decide

/-- R238: the events and the end state. -/
theorem test_dcdFrame_R238 :
    nextIs (exec (.dcdFrame wire238) (at' .dcd .dcd (0xAA :: wire238))) (fun t =>
      t.events == [.dcdSync .h2p .fresh (mp 0), .dcdSync .h2p .acquired (mp 0),
        .dcdSync .p2h .fresh (mp 0), .dcdSync .p2h .acquired (mp 0),
        .dcdFrameInvalid .p2h 0 (some 0x01) (mp 0),
        .recordAccepted (mp 0) .dcdH2P 14 .none] &&
      t.records == [⟨.dcdH2P, some 0, .link .h2p, some 0, .none, payload238.flatten⟩] &&
      t.h2p == dcdReset none && t.p2h == dcdReset (some 1)) = true := by decide

/-- R238, corrupted: wire byte 4 is `81`. -/
theorem test_dcdFrame_R238_corrupted :
    nextIs (exec (.dcdFrame (wire238.set 3 0x81)) (at' .dcd .dcd (0xAA :: wire238.set 3 0x81)))
      (fun t => t.events.drop 4 == [.dcdFrameInvalid .h2p 1 (some 0x01) (mp 0),
        .dcdFrameInvalid .p2h 1 (some 0x01) (mp 0), .desync (mp 18)] && t.records == []) = true := by
  decide

/-- Program 3: the seeded reply of one group. -/
theorem test_dcdReply :
    nextIs (exec (.dcdReply 1 [0x81, 0x80, 0x80, 0x80, 0x80, 0x80, 0xFF, 0x81])
        { at' .dcd .dcd [0xAA, 0x81, 0x80, 0x80, 0x80, 0x80, 0x80, 0xFF, 0x81] with
          p2h := dcdReset (some 1) }) (fun t =>
      t.records == [⟨.dcdP2H, some 0, .link .p2h, some 0, .none, [0x81, 0, 0, 0, 0, 0, 0x7F]⟩] &&
      t.h2p == dcdReset none && t.p2h == dcdReset none) = true := by decide

/-- R230: a frame of one group, `00 00 00 00 00 01 FF`, that H2P reads in a seeded reply of two groups
comes first, and resets P2H, so the reply is not delivered (worked by hand; log entry 17). -/
theorem test_dcdReply_misread_by_h2p :
    let body : List Byte := [0x81, 0x80, 0x80, 0x80, 0x80, 0x80, 0x80, 0x81] ++
      [0xFF, 0xC0, 0x80, 0x80, 0x80, 0x80, 0xC0, 0xC0]
    nextIs (exec (.dcdReply 2 body)
        { at' .dcd .dcd (0xAA :: body) with p2h := dcdReset (some 2) }) (fun t =>
      t.records == [⟨.dcdH2P, some 0, .link .h2p, some 0, .none, [0, 0, 0, 0, 0, 1, 0xFF]⟩] &&
      t.h2p == { dcdReset none with fresh := false }) = true := by decide

/-! ## Witnesses: encodings and steps -/

theorem test_witness_InputWordsDecodeByKind :
    (0x000#10 &&& 0x3FF = 0x000) ∧ (0x100#10 &&& 0x300 = 0x100) ∧ (0x1FF#10 &&& 0x300 = 0x100) ∧
    (0x203#10 &&& 0x3FC = 0x200 ∧ (0x200#10).extractLsb' 0 2 = 0b00#2 ∧
      (0x201#10).extractLsb' 0 2 = 0b01#2 ∧ (0x202#10).extractLsb' 0 2 = 0b10#2 ∧
      (0x203#10).extractLsb' 0 2 = 0b11#2) ∧ (0x300#10 &&& 0x3FF = 0x300) := by decide

theorem test_witness_ReservedWordsAreRefused :
    ((0x001#10).extractLsb' 8 2 = 0b00#2 ∧ (0x001#10).extractLsb' 0 8 ≠ 0#8) ∧
    ((0x3FF#10).extractLsb' 8 2 = 0b11#2 ∧ (0x3FF#10).extractLsb' 0 8 ≠ 0#8) ∧
    ((0x204#10).extractLsb' 8 2 = 0b10#2 ∧ (0x204#10).extractLsb' 2 6 ≠ 0#6) ∧
    ((0x203#10).extractLsb' 8 2 = 0b10#2 ∧ (0x203#10).extractLsb' 2 6 = 0#6 ∧
      (0x203#10).extractLsb' 0 2 = 0b11#2) ∧
    ((0x2FF#10).extractLsb' 8 2 = 0b10#2 ∧ (0x2FF#10).extractLsb' 2 6 ≠ 0#6) := by decide

theorem test_witness_DecodeUndoesEncode :
    Instr.wf (.dcdFrame wire238) = true ∧ Instr.wf (.gcrAddressMark [0x9A]) = true ∧
      Instr.wf (.byte 0xFF) = true := by decide

theorem test_witness_CompleteRecordsEndWhereTheyEnd :
    Instr.wf (.dcdFrame wire238) = true ∧ Instr.complete (.dcdFrame wire238) = true ∧
      encode (.dcdFrame wire238) = .record (.dcd none) (0xAA :: wire238) := by decide

theorem test_witness_EncodeUndoesDecode :
    decodeWord 0x1D5 = .ok (.byte 0xD5) ∧
      decodeRecord .mfm [0xC2, 0xC2, 0xC2, 0xFC, 0x4E] = some (.mfmIndexMark, [0x4E]) := by decide

theorem test_witness_StepRunsTheDecodedWord :
    State.reset.busy = false ∧ State.reset.input = [] ∧
    State.busy { State.reset with input := [0x201] } = false ∧
      decodeWord 0x201 = .ok (.reset .gcr) ∧ decodeWord 0x203 = .error .reservedMode := by decide

theorem test_witness_RecordInstructionIsSequencerWork :
    ((at' .mfm .search [0xC2, 0xC2, 0xC2, 0xFC]).busy = true ∧
      fetchRecord (at' .mfm .search [0xC2, 0xC2, 0xC2, 0xFC]) = some .mfmIndexMark) ∧
    ((at' .gcr .search [1, 2, 3]).busy = true ∧ fetchRecord (at' .gcr .search [1, 2, 3]) = none) ∧
    fetchRecord (at' .dcd .dcd (0xAA :: wire238)) = some (.dcdFrame wire238) := by decide

theorem test_witness_PlacedRowRunsNext :
    decodeTableWord 16 0x1AA = some (.byte 0xAA) ∧
    (at' .gcr .search [1, 2, 3]).busy = true ∧ State.reset.busy = false ∧
    decodeTableWord 8 0xAA = some (.dcdFrame [0, 0]) ∧
    decodeTableWord 24 0xD5AA96 = some (.gcrAddressMark [0, 0, 0, 0, 0, 0, 0]) ∧
    decodeTableWord 32 0xC2C2C2FC = some .mfmIndexMark := by decide

theorem test_witness_PowerOnValuesAreUnobservable :
    let s : State := { State.reset with input := [0x201] }
    let t : State := { at' .gcr .gcrData [1] with run := .unconfigured, input := [0x201] }
    s.run = .unconfigured ∧ t.run = .unconfigured ∧ s.cfg = t.cfg ∧ s.trace = t.trace ∧
      s.refused = t.refused ∧ s.input = t.input ∧ s ≠ t := by decide

theorem test_witness_WordsBeforeResetAreRefused : State.reset.run = .unconfigured := by decide

theorem test_witness_StopEndsTheSession :
    (at' .mfm .search [0xA1]).run = .running ∧
      State.run { State.reset with run := .stopped } = .stopped := by decide

theorem test_witness_ByteReadsAndMayResume :
    ((at' .gcr .search [0xD5]).run = .running ∧
      (at' .gcr .search [0xD5]).win.buf.length + 1 < want .gcr .search) ∧
    ((at' .gcr .search [0xD5, 0xAA]).run = .running ∧
      want .gcr .search ≤ (at' .gcr .search [0xD5, 0xAA]).win.buf.length + 1) := by decide

theorem test_witness_IdleDrainsTheWindow : (at' .gcr .search [0xD5, 0xAA]).run = .running := by decide

theorem test_witness_IdleOnAnIdleBusDoesNothing :
    ((at' .dcd .dcd []).run = .running ∧ (at' .dcd .dcd []).win = ⟨[], false⟩ ∧
      (at' .dcd .dcd []).mode = .dcd ∧ (at' .dcd .dcd []).site = .dcd) ∧
    ((at' .mfm .search []).run = .running ∧ (at' .mfm .search []).win = ⟨[], false⟩ ∧
      (at' .mfm .search []).mode ≠ .dcd ∧ (at' .mfm .search []).site = .search) := by decide

theorem test_witness_IdleTruncatesAWaitingRecord :
    (∀ n ∈ [1, 9], (at' .gcr .gcrAddr (List.replicate n 0xD5)).win.buf ≠ [] ∧
      (at' .gcr .gcrAddr (List.replicate n 0xD5)).win.buf.length < want .gcr .gcrAddr ∧
      (at' .mfm .mfmAddr (List.replicate n 0xA1)).win.buf.length < want .mfm .mfmAddr) ∧
    (at' .gcr .gcrData (List.replicate 708 0xD5)).win.buf.length < want .gcr .gcrData ∧
    (at' .mfm .mfmData (List.replicate 517 0xA1)).win.buf.length < want .mfm .mfmData ∧
    (at' .mfm .mfmData (List.replicate 517 0xA1)).run = .running := by decide +kernel

theorem test_witness_FramerTagsByMode :
    let opened : Framer := ⟨5, 4, true, 1, 7⟩
    let shut : Framer := ⟨5, 4, false, 1, 7⟩
    shut.inTxn = false ∧ opened.inTxn = true ∧ (0x7F#8).extractLsb' 7 1 ≠ opened.lastDir ∧
      (0x80#8).extractLsb' 7 1 = opened.lastDir := by decide

theorem test_witness_GcrSequencerActs :
    let front (bs : List Byte) := ((at' .gcr .search bs).win.buf.take 3).map Entry.byte
    (at' .gcr .search []).mode = .gcr ∧ (at' .gcr .search []).site = .search ∧
    front [0xD5, 0xAA, 0x96, 1] = [0xD5, 0xAA, 0x96] ∧ front [0xD5, 0xAA, 0xAD] = [0xD5, 0xAA, 0xAD] ∧
    (front [] ≠ [0xD5, 0xAA, 0x96] ∧ front [] ≠ [0xD5, 0xAA, 0xAD]) ∧
    (front [0xD5, 0xAA] ≠ [0xD5, 0xAA, 0x96] ∧ front [0xD5, 0xAA] ≠ [0xD5, 0xAA, 0xAD]) ∧
    (at' .gcr .gcrAddr []).site = .gcrAddr ∧ (at' .gcr .gcrData [0xD5]).site = .gcrData := by
  decide

theorem test_witness_MfmSequencerActs :
    let front (bs : List Byte) := ((at' .mfm .search bs).win.buf.take 4).map Entry.byte
    (at' .mfm .search []).mode = .mfm ∧ (at' .mfm .search []).site = .search ∧
    front [0xC2, 0xC2, 0xC2, 0xFC] = [0xC2, 0xC2, 0xC2, 0xFC] ∧
    front [0xA1, 0xA1, 0xA1, 0xFE] = [0xA1, 0xA1, 0xA1, 0xFE] ∧
    front [0xA1, 0xA1, 0xA1, 0xFB, 9] = [0xA1, 0xA1, 0xA1, 0xFB] ∧
    (front [0xA1, 0xA1, 0xA1] ≠ [0xC2, 0xC2, 0xC2, 0xFC] ∧
      front [0xA1, 0xA1, 0xA1] ≠ [0xA1, 0xA1, 0xA1, 0xFE] ∧
      front [0xA1, 0xA1, 0xA1] ≠ [0xA1, 0xA1, 0xA1, 0xFB]) ∧
    (at' .mfm .mfmAddr []).site = .mfmAddr ∧ (at' .mfm .mfmData [0xA1]).site = .mfmData := by decide

/-! ## Witnesses: GCR -/

theorem test_witness_GcrAddressMarkIsAcceptedOrFails_accepted :
    lookup State.reset.cfg 0x9A = some 2 ∧ lookup State.reset.cfg 0x9B = some 3 ∧
      lookup State.reset.cfg 0xD7 = some 0x21 ∧ lookup State.reset.cfg 0xD9 = some 0x22 ∧
      (2#6 ^^^ 3#6 ^^^ 0x21#6 ^^^ 0x22#6) = 2#6 := by decide

theorem test_witness_GcrAddressMarkIsAcceptedOrFails_fails :
    ([] : List Byte).length < 7 ∧ [(0 : Byte), 0, 0, 0, 0, 0].length < 7 ∧
    [(0x9A : Byte), 0xD5, 0xD7, 0x80, 0x9A].filter (fun c => (lookup State.reset.cfg c).isNone) ≠ [] ∧
    lookup State.reset.cfg 0x96 = some 0 ∧ (2#6 ^^^ 3#6 ^^^ 0x21#6 ^^^ 0x22#6) ≠ 0#6 := by decide

theorem test_witness_DefaultGcrParameters :
    defaultConfig.nibTable = defaultNibTable ∧ defaultConfig.trackSide = defaultTrackSide := by decide

theorem test_witness_DenibRunsAndErrors :
    (List.replicate 699 (0 : Nibble)).length = 699 ∧ [(1 : Nibble), 2, 3, 4].length = 4 := by
  decide +kernel

theorem test_witness_GcrDataMarkIsDeliveredOrFails_delivered :
    let v : List Nibble := List.replicate 703 0
    zeroBody.length = 706 ∧ lookup State.reset.cfg (byteAt zeroBody 0) = some 0 ∧ v.length = 703 ∧
    (slice zeroBody 1 703).map (lookup State.reset.cfg) = v.map some ∧
    (denib (v.take 699)).2 = none ∧
    cksum State.reset.cfg.gcrAdd (denib (v.take 699)).1 = (List.replicate 524 0, ⟨0, 0, 0⟩) ∧
    (denib (v.drop 699)).1 = [0, 0, 0] ∧ GcrGeom.sector ⟨66, 0, 1, 0x22⟩ = 0 := by decide +kernel

/-- Truncation at both ends of its range, and both INVALID-symbol checks. -/
theorem test_witness_GcrDataMarkIsDeliveredOrFails_symbols :
    ([] : List Byte).length < 706 ∧ (zeroBody.take 705).length < 706 ∧
    ((zeroBody.set 0 0xD5).length = 706 ∧
      lookup State.reset.cfg (byteAt (zeroBody.set 0 0xD5) 0) = none) ∧
    ((zeroBody.set 703 0x80).length = 706 ∧
      lookup State.reset.cfg (byteAt (zeroBody.set 703 0x80) 0) = some 0 ∧
      (slice (zeroBody.set 703 0x80) 1 703).filter
        (fun c => (lookup State.reset.cfg c).isNone) ≠ []) := by decide +kernel

/-- The denibblizer's check: `97`, the symbol of 1, as the hi value of the last run. -/
theorem test_witness_GcrDataMarkIsDeliveredOrFails_denib :
    let v : List Nibble := (List.replicate 703 0).set 696 1
    (zeroBody.set 697 0x97).length = 706 ∧ v.length = 703 ∧
    lookup State.reset.cfg (byteAt (zeroBody.set 697 0x97) 0) = some 0 ∧
    (slice (zeroBody.set 697 0x97) 1 703).map (lookup State.reset.cfg) = v.map some ∧
    (denib (v.take 699)).2 = some (1, 2) := by decide +kernel

/-- The checksum's check: a target of `(1, 0, 0)` against the computed `(0, 0, 0)`. -/
theorem test_witness_GcrDataMarkIsDeliveredOrFails_checksum :
    let v : List Nibble := (List.replicate 703 0).set 700 1
    (zeroBody.set 701 0x97).length = 706 ∧ v.length = 703 ∧
    lookup State.reset.cfg (byteAt (zeroBody.set 701 0x97) 0) = some 0 ∧
    (slice (zeroBody.set 701 0x97) 1 703).map (lookup State.reset.cfg) = v.map some ∧
    (denib (v.take 699)).2 = none ∧
    cksum State.reset.cfg.gcrAdd (denib (v.take 699)).1 = (List.replicate 524 0, ⟨0, 0, 0⟩) ∧
    (denib (v.drop 699)).1 = [1, 0, 0] ∧ (((0 : Byte), (0 : Byte), (0 : Byte)) ≠ (1, 0, 0)) := by
  decide +kernel

/-- The sector's check, with no geometry and with another sector's; the other hypotheses are those of
`test_witness_GcrDataMarkIsDeliveredOrFails_delivered`. -/
theorem test_witness_GcrDataMarkIsDeliveredOrFails_sector :
    State.reset.ggeom = none ∧ GcrGeom.sector ⟨66, 3, 1, 0x22⟩ ≠ 0 := by decide

theorem test_witness_GcrDataExpansionIsDelivered :
    State.reset.cfg.nibTable = defaultNibTable ∧ State.reset.cfg.gcrAdd = .mod256 ∧
      (List.replicate 524 (0x5A : Byte)).length = 524 ∧ GcrGeom.sector ⟨66, 3, 1, 0x22⟩ = 3 := by
  decide +kernel

/-! ## Witnesses: MFM -/

theorem test_witness_CrcSeesEverySingleBit :
    let r : List Byte := [0xA1, 0xA1, 0xA1, 0xFE, 0x05, 0x00, 0x03, 0x02, 0x10, 0x48]
    crc r = 0 ∧ r[0]? = some 0xA1 ∧ r[9]? = some 0x48 ∧ 7 < 8 := by decide

theorem test_witness_MfmAddressMarkIsAcceptedOrFails_accepted :
    crc [0xA1, 0xA1, 0xA1, 0xFE, 0x05, 0x00, 0x03, 0x02, 0x10, 0x48] = 0 := by decide

theorem test_witness_MfmAddressMarkIsAcceptedOrFails_fails :
    ([] : List Byte).length < 6 ∧ [(5 : Byte), 0, 3, 2, 0x10].length < 6 ∧
      crc [0xA1, 0xA1, 0xA1, 0xFE, 0x05, 0x00, 0x04, 0x02, 0x10, 0x48] ≠ 0 := by decide

theorem test_witness_MfmDataMarkIsDeliveredOrFails :
    ([] : List Byte).length < 514 ∧ (List.replicate 513 (0 : Byte)).length < 514 ∧
    (List.replicate 512 (0 : Byte)).length = 512 ∧
    crc ([0xA1, 0xA1, 0xA1, 0xFB] ++ List.replicate 512 0 ++ [0xDA, 0x6E]) = 0 ∧
    crc ([0xA1, 0xA1, 0xA1, 0xFB] ++ List.replicate 512 0 ++ [0xDA, 0x6F]) ≠ 0 ∧
    State.reset.mgeom = none ∧
    State.mgeom { State.reset with mgeom := some ⟨5, 0, 3, 2⟩ } = some ⟨5, 0, 3, 2⟩ := by
  decide +kernel

/-! ## Witnesses: DCD -/

/-- A decoder in a phase, with `body` and `payload`, that has been fed before. -/
def dec (ph : Phase) (out : Bits7) (payload : List Byte) (body : List Bits7) : DcdDecoder :=
  ⟨ph, false, none, out, some 1, payload, body, mp 0⟩

theorem test_witness_DcdFreshAndSync :
    (dcdReset none).fresh = true ∧
    (dec .seekingSync 0 [] []).fresh = false ∧ (dec .seekingSync 0 [] []).phase = .seekingSync ∧
    (dec .seekingSync 0 [] []).seed = none ∧ (0x55 : Byte) ≠ 0xAA ∧
    DcdDecoder.seed { dec .seekingSync 0 [] [] with seed := some 127 } = some 127 := by decide

theorem test_witness_DcdHeaderIsRead :
    (dec .readingHeader0 0 [] []).fresh = false ∧
    (dec .readingHeader0 0 [] []).phase = .readingHeader0 ∧
    ((dec .readingHeader1 127 [] []).phase = .readingHeader1 ∧
      (dec .readingHeader1 127 [] []).outGroups ≠ 0) ∧
    ((dec .readingHeader1 0 [] []).outGroups = 0 ∧ (dec .readingHeader1 0 [] []).payload = []) := by
  decide

theorem test_witness_DcdGroupsAreAssembled :
    let body6 : List Bits7 := List.replicate 6 0
    let body7 : List Bits7 := [1, 0, 0, 0, 0, 0, 0x7F]
    ((dec .readingPayload 1 [] []).body.length < 6) ∧
    ((dec .readingPayload 1 [] body6).fresh = false ∧
      (dec .readingPayload 1 [] body6).phase = .readingPayload ∧
      (dec .readingPayload 1 [] body6).body.length = 6) ∧
    ((dec .awaitingCarrier 2 [] body7).phase = .awaitingCarrier ∧
      ([] ++ assembleGroup defaultConfig .h2p body7 0xC0).length ≠ 7 * (2#7).toNat) ∧
    (([] ++ assembleGroup defaultConfig .h2p body7 0xC0).length = 7 * (1#7).toNat ∧
      validPayload .h2p ([] ++ assembleGroup defaultConfig .h2p body7 0xC0) = true) ∧
    validPayload .p2h ([] ++ assembleGroup defaultConfig .p2h body7 0xC0) = false := by decide

theorem test_witness_DcdHoldoffResumesOrGivesUp :
    (dec .holdoff 2 (List.replicate 7 0) []).fresh = false ∧
    (dec .holdoff 2 (List.replicate 7 0) []).phase = .holdoff ∧ (0xAB : Byte) ≠ 0xAA ∧
    (dec .gaveUp 2 [] []).phase = .gaveUp := by decide

theorem test_witness_DcdCarrierFillsBitSeven :
    ([1, 0, 0x7F, 0x7F, 0, 0x55, 0x2A] : List Bits7)[6]? = some 0x2A ∧
    ([0x01, 0x80, 0x7F, 0xFF, 0x00, 0x55, 0xAA] : List Byte).length = 7 ∧
    defaultConfig.p2hOrder = .lsbFirst := by decide

theorem test_witness_DcdValidityIsSumAndPolarity :
    (0x01#8).getLsbD 7 = false ∧ (0x81#8).getLsbD 7 = true ∧
    validPayload .h2p [0x01, 0xFF] = true ∧ validPayload .p2h [0x81, 0x7F] = true := by decide

/-- The four outcomes of R230 to R233, each of two decoders fed one byte. -/
theorem test_witness_DcdLinkArbitration :
    let body7 : List Bits7 := [1, 0, 0, 0, 0, 0, 0x7F]
    let full : DcdDecoder := dec .awaitingCarrier 1 [] body7
    (dcdFeed defaultConfig .h2p full 0xC0 (mp 9)).res =
      .valid [1, 0, 0, 0, 0, 0, 0xFF] (some 1) (mp 0) ∧
    ((dcdFeed defaultConfig .h2p (dec .gaveUp 0 [] []) 0x81 (mp 9)).res = .gaveUp ∧
      (dcdFeed defaultConfig .p2h (dec .awaitingCarrier 1 [] body7) 0x81 (mp 9)).res =
        .valid [0x81, 0, 0, 0, 0, 0, 0x7F] (some 1) (mp 0)) ∧
    (dcdFeed defaultConfig .p2h full 0xC0 (mp 9)).res = .invalid ∧
    (dcdFeed defaultConfig .h2p (dcdReset none) 0x55 (mp 9)).res = .hopeful := by decide

theorem test_witness_DcdFramesFeedEachByte :
    (at' .dcd .dcd []).site = .dcd ∧ (at' .dcd .dcd []).win.buf = [] ∧
      (at' .dcd .dcd [0xAA, 0x81]).win.buf = [⟨0xAA, ⟨0, none, 0⟩⟩, ⟨0x81, ⟨0, none, 1⟩⟩] := by decide

theorem test_witness_DcdFrameIsReconstructed :
    (∀ g ∈ payload238, g.length = 7) ∧ 0 < payload238.length ∧ payload238.length ≤ 127 ∧
    State.reset.h2p = dcdReset none ∧ State.reset.p2h = dcdReset none ∧
    validPayload .h2p payload238.flatten = true ∧ State.reset.cfg.p2hOrder = .lsbFirst ∧
    validPayload .p2h [[0x81, 0, 0, 0, 0, 0, 0x7F]].flatten = true ∧
    byteSum [[0x01, 0, 0, 0, 0, 0, 0]].flatten ≠ 0 := by decide

/-- The payload of program 3's reply. -/
def replyP2H : List (List Byte) := [[0x81, 0, 0, 0, 0, 0, 0x7F]]

/-- A reply of two groups valid for P2H, in which H2P reads a frame of one group first:
`81 | 7F | 00 ...`, its payload `00 00 00 00 00 01 FF`. -/
def replyMisread : List (List Byte) := [[0x81, 0, 0, 0, 0, 0, 0], [0x7F, 0x40, 0, 0, 0, 0, 0xC0]]

/-- The state after the frame of R238, which seeds P2H (R232): program 3's reply, a reply whose first
payload byte is 0 in its low 7 bits, a link whose H2P has given up, and a reply that H2P misreads. -/
theorem test_witness_DcdReplyIsReconstructed :
    let s : State := { State.reset with p2h := dcdReset (some 1) }
    let zero : List (List Byte) := [[0x80, 0, 0, 0, 0, 0, 0x80]]
    ((∀ g ∈ replyP2H, g.length = 7) ∧ (1 : Bits7) ≠ 0 ∧ replyP2H.length = (1 : Bits7).toNat ∧
      s.cfg.p2hOrder = .lsbFirst ∧ s.p2h = { dcdReset (some 1) with fresh := s.p2h.fresh } ∧
      s.h2p = { dcdReset none with fresh := s.h2p.fresh } ∧
      yieldsFrame s.cfg .h2p s.h2p (0xAA :: asmGroups replyP2H []) = false ∧
      (asmGroups replyP2H []).length < 2 + 8 * ((byteAt replyP2H.flatten 0).extractLsb' 0 7).toNat ∧
      validPayload .p2h replyP2H.flatten = true) ∧
    ((byteAt zero.flatten 0).extractLsb' 0 7 = 0#7 ∧ validPayload .p2h zero.flatten = true) ∧
    yieldsFrame s.cfg .h2p (dec .gaveUp 0 [] []) (0xAA :: asmGroups replyMisread []) = false ∧
    ((∀ g ∈ replyMisread, g.length = 7) ∧ replyMisread.length = (2 : Bits7).toNat ∧
      validPayload .p2h replyMisread.flatten = true ∧
      yieldsFrame s.cfg .h2p s.h2p (0xAA :: asmGroups replyMisread []) = true) := by decide

theorem test_witness_DcdReplyToPeerIsReconstructed :
    let s : State := { State.reset with h2p := dcdReset (some 1) }
    let one : List (List Byte) := [[0x01, 0, 0, 0, 0, 0, 0xFF]]
    let zero : List (List Byte) := [[0x00, 0, 0, 0, 0, 0, 0]]
    let misread : List (List Byte) := [[0x01, 0, 0, 0, 0, 0, 0], [0x00, 0x41, 0, 0, 0, 0, 0xBE]]
    ((∀ g ∈ one, g.length = 7) ∧ (1 : Bits7) ≠ 0 ∧ one.length = (1 : Bits7).toNat ∧
      s.h2p = { dcdReset (some 1) with fresh := s.h2p.fresh } ∧
      s.p2h = { dcdReset none with fresh := s.p2h.fresh } ∧
      yieldsFrame s.cfg .p2h s.p2h (0xAA :: (asmGroups one []).dropLast) = false ∧
      (asmGroups one []).length ≤ 2 + 8 * ((byteAt one.flatten 0).extractLsb' 0 7).toNat ∧
      validPayload .h2p one.flatten = true) ∧
    ((byteAt zero.flatten 0).extractLsb' 0 7 = 0#7 ∧ validPayload .h2p zero.flatten = true) ∧
    ((∀ g ∈ misread, g.length = 7) ∧ misread.length = (2 : Bits7).toNat ∧
      validPayload .h2p misread.flatten = true ∧
      yieldsFrame s.cfg .p2h s.p2h (0xAA :: (asmGroups misread []).dropLast) = true) := by decide

/-! ## Witnesses: whole-machine rules and invariants -/

theorem test_witness_RefusalIsStickyFromTheFirst :
    let s : State := { State.reset with refused := some .reservedBits, input := [0x201] }
    nextIs (step s) (fun t => t.run == .running) = true ∧ s.refused = some .reservedBits ∧
      State.reset.refused = none := by decide

theorem test_witness_OutputsAreAppendOnly :
    nextIs (step { at' .mfm .search [1, 2, 3] with input := [0x104] })
      (fun t => t.trace.length == 2) = true := by decide

theorem test_witness_EveryByteIsCapturedOnceAndFirst :
    (at' .gcr .search []).run = .running ∧ State.reset.run ≠ .running ∧
      nextIs (exec (.byte 0) State.reset) (fun t => t.capture == []) = true ∧
      (∀ b, Instr.idle ≠ .byte b) ∧
      nextIs (exec .idle (at' .gcr .search [1])) (fun t => t.capture == []) = true := by
  refine ⟨by decide, by decide, by decide, by simp, by decide⟩

theorem test_witness_ConfigurationIsNeverWritten :
    nextIs (step { State.reset with input := [0x202] }) (fun t => t.mode == .mfm) = true := by
  decide

theorem test_witness_ControlStateChangesOnlyByResetAndStop :
    nextIs (exec (.reset .gcr) State.reset) (fun t => t.mode == .gcr) = true ∧
    (∀ m, Instr.stop ≠ .reset m) ∧
    nextIs (exec .stop (at' .gcr .search [])) (fun t => t.run == .stopped) = true := by
  refine ⟨by decide, by simp, by decide⟩

/-- A failed address mark: its outputs hold no address-mark event. -/
theorem test_witness_GeometryChangesOnlyAtAddressMarks :
    let s : State := { at' .gcr .gcrAddr [0xD5] with ggeom := some ⟨66, 3, 1, 0x22⟩ }
    let outs : List Output := [.event (.truncated (gp 0) .gcrAddr 3)]
    (∀ m, Instr.gcrAddressMark [] ≠ .reset m) ∧
    nextIs (exec (.gcrAddressMark []) s) (fun t => t.trace == s.trace ++ outs) = true ∧
    (∀ p tr sec side fmt, .event (.gcrAddressMark p tr sec side fmt) ∉ outs) ∧
    (∀ p tr side sec z, .event (.mfmAddressMark p tr side sec z) ∉ outs) := by
  refine ⟨by simp, by decide, by simp, by simp⟩

theorem test_witness_SequencerInvIsKept :
    SequencerInv (at' .gcr .gcrAddr [0xD5, 0xAA, 0x96, 0x9A]) ∧
    nextIs (step { at' .gcr .gcrAddr [0xD5, 0xAA, 0x96, 0x9A] with input := [0x19B] })
      (fun t => t.site == .gcrAddr) = true :=
  ⟨⟨by decide, by decide, by decide⟩, by decide⟩

theorem test_witness_FramerInvIsKept :
    FramerInv { at' .gcr .search [] with fr := ⟨3, 2, true, 1, 1⟩ } ∧
    nextIs (step { at' .gcr .search [] with fr := ⟨3, 2, true, 1, 1⟩, input := [0x100] })
      (fun t => t.fr == ⟨4, 3, true, 0, 1⟩) = true :=
  ⟨⟨by decide, by decide, by decide, by decide⟩, by decide⟩

/-- A session in the middle of a frame, whose next byte is a carrier. -/
def midFrame : State :=
  { at' .dcd .dcd [] with
    h2p := dec .awaitingCarrier 2 [] (List.replicate 7 0)
    p2h := dec .gaveUp 2 [] []
    input := [0x180] }

theorem test_witness_LinkInvIsKept :
    SequencerInv midFrame ∧ LinkInv midFrame ∧
      nextIs (step midFrame) (fun t => t.h2p.phase == .readingPayload) = true := by
  refine ⟨⟨by decide, by decide, by decide⟩, ⟨?_, ?_⟩, by decide⟩ <;>
    exact ⟨by decide, by decide, by decide, by decide, rfl, by decide, by decide, by decide⟩

theorem test_witness_OutputsInvIsKept :
    SequencerInv midFrame ∧ LinkInv midFrame ∧ OutputsInv midFrame ∧
      nextIs (step midFrame) (fun t => t.records == []) = true :=
  ⟨test_witness_LinkInvIsKept.1, test_witness_LinkInvIsKept.2.1,
    ⟨by simp [midFrame, at', placeRecord, State.records, State.reset], by decide⟩, by decide⟩

/-- Each of the hypothesis's alternatives: both DCD kinds, MFM and GCR. -/
theorem test_witness_RecordIsEmittedWithItsEvent :
    (Kind.dcdH2P = .dcdH2P ∧ RecordDir.link .h2p = .link .h2p) ∧
    (Kind.dcdP2H = .dcdP2H ∧ RecordDir.link .p2h = .link .p2h) ∧
    (Kind.mfmData ≠ .dcdH2P ∧ Kind.mfmData ≠ .dcdP2H ∧ Prov.dir ⟨0, none, 14⟩ = none) ∧
    (Kind.gcrData ≠ .dcdH2P ∧ Kind.gcrData ≠ .dcdP2H ∧ Prov.dir ⟨0, some 1, 10⟩ = some 1) := by decide

theorem test_witness_MfmAddressMarkLogLine :
    ∀ p track side sector size, Event.desync none ≠ .mfmAddressMark p track side sector size := by
  simp

end Sys2Proof.Tests
end

section
/-! What one instruction and one piece of the sequencer's work can do to the state: an inversion
lemma for `act` and one for `exec`, from which the statements about the whole state follow
(10_state.md; 40_operations.md R150 to R162). -/

namespace Sys2Proof.Machine

/-! ## One `act` -/

/-- What one iteration of the sequencer can do (R158 to R162): move to a record site, drop a byte at a
search miss, fail a candidate, accept a mark or a record, feed the window's byte to the link, or, at
site `Dcd` with an empty window, clear `eos`. -/
inductive Acted (s : State) : State → Prop where
  | move (site : Site) (hbuf : s.win.buf ≠ []) : Acted s { s with site := site }
  | miss : Acted s (toSearch (skip s))
  | fail (e : Event) : Acted s (toSearch (failCandidate e s))
  | gcrAddr (p : Option Prov) (g : GcrGeom) :
      Acted s (toSearch (pop lenGcrAddr
        (emitEvent (.gcrAddressMark p g.track g.sector g.side g.format) { s with ggeom := some g })))
  | mfmAddr (p : Option Prov) (g : MfmGeom) :
      Acted s (toSearch (pop lenMfmAddr
        (emitEvent (.mfmAddressMark p g.track g.side g.sector (mfmSize g.sizeCode))
          { s with mgeom := some g })))
  | mfmIndex (p : Option Prov) : Acted s (toSearch (mfmIndex p s))
  | record (n : Nat) (k : Kind) (p : Option Prov) (g : Geom) (d : List Byte) :
      Acted s (toSearch (pop n (emitRecord k p g d s)))
  | link (b : Byte) (hbuf : s.win.buf ≠ []) : Acted s (actDcdByte b s)
  | drained : Acted s { pop 1 s with site := .dcd }

theorem acted_actGcrAddr (p : Option Prov) (r : List Byte) (s : State) :
    Acted s (actGcrAddr p r s) := by
  unfold actGcrAddr
  rcases gcrAddrEval_cases p r s with ⟨e, -, h⟩ | ⟨g, h⟩
  · exact h ▸ .fail e
  · exact h ▸ .gcrAddr p g

theorem acted_actGcrData (p : Option Prov) (r : List Byte) (s : State) :
    Acted s (actGcrData p r s) := by
  unfold actGcrData
  rcases gcrDataEval_cases p r s with ⟨e, -, h⟩ | ⟨g, v, -, -, -, -, h⟩
  · exact h ▸ .fail e
  · exact h ▸ .record ..

theorem acted_actMfmAddr (p : Option Prov) (r : List Byte) (s : State) :
    Acted s (actMfmAddr p r s) := by
  unfold actMfmAddr
  rcases mfmAddrEval_cases p r s with ⟨e, -, h⟩ | ⟨g, -, h⟩
  · exact h ▸ .fail e
  · exact h ▸ .mfmAddr p g

theorem acted_actMfmData (p : Option Prov) (r : List Byte) (s : State) :
    Acted s (actMfmData p r s) := by
  unfold actMfmData
  rcases mfmDataEval_cases p r s with ⟨e, -, h⟩ | ⟨-, -, h⟩
  · exact h ▸ .fail e
  · exact h ▸ .record ..

theorem acted_actGcrSearch (n : Nat) (s : State) :
    Acted s (actGcrSearch (peekResult s n).2 s) := by
  unfold actGcrSearch
  split_ifs with h h
  · exact .move _ (buf_ne_nil_of_peek h)
  · exact .move _ (buf_ne_nil_of_peek h)
  · exact .miss

theorem acted_actMfmSearch (p : Option Prov) (n : Nat) (s : State) :
    Acted s (actMfmSearch p (peekResult s n).2 s) := by
  unfold actMfmSearch
  split_ifs with h h h
  · exact .mfmIndex p
  · exact .move _ (buf_ne_nil_of_peek h)
  · exact .move _ (buf_ne_nil_of_peek h)
  · exact .miss

theorem acted_actDcd (n : Nat) (s : State) : Acted s (actDcd (peekResult s n).2 s) := by
  unfold actDcd
  split
  · exact .drained
  · rename_i h
    exact .link _ (buf_ne_nil_of_peek h)

theorem acted_act (s : State) : Acted s (act s) := by
  unfold act
  dsimp only
  split
  · split
    · exact acted_actGcrSearch _ s
    · exact acted_actMfmSearch _ _ s
    · exact acted_actDcd _ s
  · exact acted_actGcrAddr _ _ s
  · exact acted_actGcrData _ _ s
  · exact acted_actMfmAddr _ _ s
  · exact acted_actMfmData _ _ s
  · exact acted_actDcd _ s

theorem Acted.seqWork {s t : State} (h : Acted s t) : SeqWork s t := by
  cases h with
  | move site hbuf => exact seqWork_move s site hbuf
  | miss => exact (seqWork_skip s).toSearch
  | fail e => exact (seqWork_fail e s).toSearch
  | gcrAddr p g => exact .toSearch (.of_pop _ rfl rfl rfl rfl rfl rfl rfl ⟨[_], rfl, rfl⟩)
  | mfmAddr p g => exact .toSearch (.of_pop _ rfl rfl rfl rfl rfl rfl rfl ⟨[_], rfl, rfl⟩)
  | mfmIndex p => exact (seqWork_mfmIndex p s).toSearch
  | record n k p g d =>
    exact .toSearch (.of_pop n rfl rfl rfl rfl rfl rfl rfl (grows_emitRecord k p g d s))
  | link b hbuf => exact seqWork_actDcdByte b s
  | drained => exact .setSite (.of_pop 1 rfl rfl rfl rfl rfl rfl rfl (.refl rfl)) .dcd

theorem SeqWork.capture_eq {s t : State} (h : SeqWork s t) : t.capture = s.capture := by
  obtain ⟨outs, htrace, hcap⟩ := h.trace
  rw [capture_of_trace htrace, hcap, List.append_nil]

/-! ## One instruction -/

/-- What an instruction can do (R150 to R155): a word runs, or is refused outside a session; a record is
evaluated at the front of the window, and a DCD frame's bytes are fed to the link. -/
inductive Ran (s : State) : Instr → State → Prop where
  | reset (m : Mode) : Ran s (.reset m) (opReset m s)
  | idle (hrun : s.run = .running) : Ran s .idle (opIdle s)
  | byte (b : Byte) (hrun : s.run = .running) : Ran s (.byte b) (opByte b s)
  | stop (hrun : s.run = .running) : Ran s .stop (opStop s)
  | refused (i : Instr) (q : RefuseReason) (hrun : s.run ≠ .running) : Ran s i (refuse q s)
  | record {i : Instr} {t : State} (hi : i ≠ .stop) (ht : Acted s t) : Ran s i t
  | frame {i : Instr} (hi : i ≠ .stop) (b : Byte) (bs : List Byte) : Ran s i (feedBytes (b :: bs) s)

/-- A word of a running session runs, and outside one it is refused (R152, R153). -/
theorem ran_whenRunning {i : Instr} {f : State → State} {s : State}
    (h : s.run = .running → Ran s i (f s)) : Ran s i (whenRunning f s) := by
  rcases whenRunning_cases f s with ⟨hrun, heq⟩ | ⟨hrun, q, heq⟩
  · exact heq ▸ h hrun
  · exact heq ▸ .refused i q hrun

theorem ran_of_exec {i : Instr} {s t : State} (h : exec i s = .next t) : Ran s i t := by
  cases i <;> cases h
  case idle => exact ran_whenRunning .idle
  case byte b => exact ran_whenRunning (.byte b)
  case reset m => exact .reset m
  case stop => exact ran_whenRunning .stop
  case gcrAddressMark body => exact .record (by simp) (acted_actGcrAddr ..)
  case gcrDataMark body => exact .record (by simp) (acted_actGcrData ..)
  case mfmIndexMark => exact .record (by simp) (.mfmIndex _)
  case mfmAddressMark body => exact .record (by simp) (acted_actMfmAddr ..)
  case mfmDataMark body => exact .record (by simp) (acted_actMfmData ..)
  case dcdFrame body => exact .frame (by simp) syncByte body
  case dcdReply seed body => exact .frame (by simp) syncByte body

/-! ## One step -/

/-- What the input port, a refusal, one `act` and every instruction keep, a step keeps (R150). -/
theorem step_keeps {P : State → Prop} (hinput : ∀ s ws, P s → P { s with input := ws })
    (hrefuse : ∀ q s, P s → P (refuse q s)) (hact : ∀ s, P s → P (act s))
    (hran : ∀ s i t, Ran s i t → P s → P t) {s t : State} (hs : P s) (h : step s = .next t) : P t := by
  rcases step_cases h with ⟨-, ⟨i, -, he⟩ | ⟨-, rfl⟩⟩ | ⟨-, ⟨-, rfl⟩ | ⟨w, ws, -, hw⟩⟩
  · exact hran _ _ _ (ran_of_exec he) hs
  · exact hact s hs
  · exact hs
  · rcases hw with ⟨i, -, he⟩ | ⟨r, -, rfl⟩
    · exact hran _ _ _ (ran_of_exec he) (hinput s ws hs)
    · obtain ⟨q, hq⟩ := refuseReserved_eq r { s with input := ws }
      exact hq ▸ hrefuse q _ (hinput s ws hs)

end Sys2Proof.Machine
end

section
/-! The DCD decoders' invariant: each phase of a feed, the arbitration and the sequencer keep it
(42_dcd.md R212 to R233). -/

namespace Sys2Proof.Machine

theorem dcdInv_dcdReset (x : Option Bits7) : DcdInv (dcdReset x) where
  payload := by simp
  groups := by simp
  progress := by simp [Phase.inGroups]
  empty := by simp
  body := rfl
  seed := dcdReset_seed_ne_zero x
  sync := by simp
  fresh := by simp

/-- A decoder that has given up needs no more than its sizes, its seed and its sync byte. -/
theorem DcdInv.of_gaveUp {d : DcdDecoder} (hphase : d.phase = .gaveUp)
    (hpayload : d.payload.length ≤ 889) (hgroups : d.payload.length % 7 = 0) (hbody : d.body = [])
    (hseed : d.seed ≠ some 0) (hsync : d.syncProv.isSome = true) (hfresh : d.fresh = false) :
    DcdInv d where
  payload := hpayload
  groups := hgroups
  progress := by simp [hphase, Phase.inGroups]
  empty := by simp [hphase, Phase.beforeGroups]
  body := by simpa [hphase] using hbody
  seed := hseed
  sync := fun _ => hsync
  fresh := by simp [hfresh]

/-- A decoder between two groups of its frame, or before the first one: no group is begun, and one is to
come. -/
theorem DcdInv.of_betweenGroups {d : DcdDecoder}
    (hphase : d.phase = .readingPayload ∨ d.phase = .holdoff)
    (hgroups : d.payload.length % 7 = 0) (hprogress : d.payload.length < 7 * d.outGroups.toNat)
    (hbody : d.body = []) (hseed : d.seed ≠ some 0) (hsync : d.syncProv.isSome = true)
    (hfresh : d.fresh = false) : DcdInv d where
  payload := by
    have := d.outGroups.isLt
    omega
  groups := hgroups
  progress := fun _ => hprogress
  empty := by rcases hphase with h | h <;> simp [h, Phase.beforeGroups]
  body := by rcases hphase with h | h <;> simp [h, hbody]
  seed := hseed
  sync := fun _ => hsync
  fresh := by simp [hfresh]

theorem DcdInv.of_groupsStart {d : DcdDecoder} (hphase : d.phase = .readingPayload)
    (hpayload : d.payload = []) (hbody : d.body = []) (hout : d.outGroups ≠ 0)
    (hseed : d.seed ≠ some 0) (hsync : d.syncProv.isSome = true) (hfresh : d.fresh = false) :
    DcdInv d := by
  have hpos : 0 < d.outGroups.toNat := Nat.pos_of_ne_zero (BitVec.toNat_ne.mp hout)
  exact .of_betweenGroups (.inl hphase) (by simp [hpayload]) (by simp [hpayload, hpos]) hbody hseed
    hsync hfresh

section
variable {cfg : Config} {dir : LinkDir} {d : DcdDecoder} {b : Byte} {prov : Option Prov}

theorem DcdInv.fed (h : DcdInv d) : DcdInv { d with fresh := false } :=
  { h with fresh := by simp }

/-- A frame that completes without being valid leaves a legal decoder that has given up (R223). -/
theorem dcdInv_complete (hpayload : d.payload.length ≤ 889) (hgroups : d.payload.length % 7 = 0)
    (hbody : d.body = []) (hseed : d.seed ≠ some 0) (hsync : d.syncProv.isSome = true)
    (hfresh : d.fresh = false) (hv : (complete dir d).res.isValid = false) :
    DcdInv (complete dir d).dec := by
  rcases complete_cases dir d with ⟨-, hc⟩ | ⟨-, hc⟩
  · simp [hc, FeedResult.isValid] at hv
  · exact hc ▸ .of_gaveUp rfl hpayload hgroups hbody hseed hsync hfresh

theorem dcdInv_feedSeek (h : DcdInv d) (hphase : d.phase = .seekingSync) (hfresh : d.fresh = false)
    (hprov : prov.isSome = true) : DcdInv (feedSeek dir d b prov).dec := by
  have hpayload : d.payload = [] := h.empty (by simp [hphase, Phase.beforeGroups])
  have hbody : d.body = [] := by simpa [hphase] using h.body
  unfold feedSeek
  split_ifs
  · exact h
  · split
    · exact { h with
        progress := by simp [Phase.inGroups]
        empty := fun _ => hpayload
        body := hbody
        sync := fun _ => hprov
        fresh := by simp [hfresh] }
    · rename_i n hn
      exact .of_groupsStart rfl hpayload hbody (fun h0 => h.seed (h0 ▸ hn)) h.seed hprov hfresh

theorem dcdInv_feedHdr0 (h : DcdInv d) (hphase : d.phase = .readingHeader0) :
    DcdInv (feedHdr0 d b).dec :=
  { h with
    progress := by simp [feedHdr0, Phase.inGroups]
    empty := fun _ => h.empty (by simp [hphase, Phase.beforeGroups])
    body := by simpa [hphase, feedHdr0] using h.body
    sync := fun _ => h.sync (by simp [hphase])
    fresh := fun hf => by simpa [hphase] using h.fresh hf }

theorem dcdInv_feedHdr1 (h : DcdInv d) (hphase : d.phase = .readingHeader1)
    (hfresh : d.fresh = false) (hv : (feedHdr1 dir d b).res.isValid = false) :
    DcdInv (feedHdr1 dir d b).dec := by
  have hpayload : d.payload = [] := h.empty (by simp [hphase, Phase.beforeGroups])
  have hbody : d.body = [] := by simpa [hphase] using h.body
  have hsync := h.sync (by simp [hphase])
  unfold feedHdr1 startPayload at hv ⊢
  split_ifs at hv ⊢ with h0
  · exact dcdInv_complete h.payload h.groups hbody h.seed hsync hfresh hv
  · exact .of_groupsStart rfl hpayload hbody h0 h.seed hsync hfresh

theorem dcdInv_feedBody (h : DcdInv d) (hphase : d.phase = .readingPayload)
    (hfresh : d.fresh = false) : DcdInv (feedBody d b).dec := by
  have hbody : d.body.length < 7 := by simpa [hphase] using h.body
  have hprogress := h.progress (by simp [hphase, Phase.inGroups])
  have hsync := h.sync (by simp [hphase])
  exact { h with
    progress := fun _ => hprogress
    empty := by by_cases h7 : d.body.length = 6 <;> simp [feedBody, h7, hphase, Phase.beforeGroups]
    body := by by_cases h7 : d.body.length = 6 <;> simp [feedBody, h7, hphase]; omega
    sync := fun _ => hsync
    fresh := by simp [feedBody, hfresh] }

/-- A carrier adds one whole group, which is the frame's last one or leaves groups to come (R220). -/
theorem dcdInv_feedCarrier (h : DcdInv d) (hphase : d.phase = .awaitingCarrier)
    (hfresh : d.fresh = false) (hv : (feedCarrier cfg dir d b).res.isValid = false) :
    DcdInv (feedCarrier cfg dir d b).dec := by
  have hbody : d.body.length = 7 := by simpa [hphase] using h.body
  have hprogress := h.progress (by simp [hphase, Phase.inGroups])
  have hgroups := h.groups
  have hout := d.outGroups.isLt
  have hsync := h.sync (by simp [hphase])
  have hlen : (d.payload ++ assembleGroup cfg dir d.body b).length = d.payload.length + 7 := by
    simp [hbody]
  have hwhole : (d.payload ++ assembleGroup cfg dir d.body b).length % 7 = 0 := by omega
  unfold feedCarrier at hv ⊢
  dsimp only at hv ⊢
  by_cases hlast :
      (d.payload ++ assembleGroup cfg dir d.body b).length = 7 * d.outGroups.toNat
  · rw [if_pos hlast] at hv ⊢
    exact dcdInv_complete (by simp only [hlen]; omega) hwhole rfl h.seed hsync hfresh hv
  · rw [if_neg hlast]
    refine .of_betweenGroups ?_ hwhole (by simp only [hlen] at hlast ⊢; omega) rfl h.seed hsync hfresh
    cases b.msb
    · exact .inr rfl
    · exact .inl rfl

theorem dcdInv_feedHoldoff (h : DcdInv d) (hphase : d.phase = .holdoff) (hfresh : d.fresh = false) :
    DcdInv (feedHoldoff dir d b prov).dec := by
  have hbody : d.body = [] := by simpa [hphase] using h.body
  have hsync := h.sync (by simp [hphase])
  unfold feedHoldoff
  split_ifs
  · exact .of_betweenGroups (.inl rfl) h.groups (h.progress (by simp [hphase, Phase.inGroups])) hbody
      h.seed hsync hfresh
  · exact .of_gaveUp rfl h.payload h.groups hbody h.seed hsync hfresh

/-- A phase's work leaves a legal decoder, unless it delivers a frame, after which the link resets the
decoder (R212, R231). -/
theorem dcdInv_feedPhase (h : DcdInv d) (hfresh : d.fresh = false) (hprov : prov.isSome = true)
    (hv : (feedPhase cfg dir d b prov).res.isValid = false) :
    DcdInv (feedPhase cfg dir d b prov).dec := by
  unfold feedPhase at hv ⊢
  split at hv <;> rename_i hphase
  · exact dcdInv_feedSeek h hphase hfresh hprov
  · exact dcdInv_feedHdr0 h hphase
  · exact dcdInv_feedHdr1 h hphase hfresh hv
  · exact dcdInv_feedBody h hphase hfresh
  · exact dcdInv_feedCarrier h hphase hfresh hv
  · exact dcdInv_feedHoldoff h hphase hfresh
  · exact h

theorem dcdInv_dcdFeed (h : DcdInv d) (hprov : prov.isSome = true)
    (hv : (dcdFeed cfg dir d b prov).res.isValid = false) : DcdInv (dcdFeed cfg dir d b prov).dec :=
  dcdInv_feedPhase h.fed rfl hprov hv

end

/-- The arbitration resets both decoders where one delivers a frame (R231, R232). -/
theorem linkInv_arbitrate {h p : FeedOut} {prov : Option Prov} {s : State}
    (hh : h.res.isValid = false → DcdInv s.h2p) (hp : p.res.isValid = false → DcdInv s.p2h) :
    LinkInv (arbitrate h p prov s) := by
  unfold arbitrate
  split
  · exact ⟨dcdInv_dcdReset _, dcdInv_dcdReset _⟩
  · exact ⟨dcdInv_dcdReset _, dcdInv_dcdReset _⟩
  · rename_i hnoth hnotp
    split_ifs
    · exact ⟨dcdInv_dcdReset _, dcdInv_dcdReset _⟩
    · refine ⟨hh ?_, hp ?_⟩ <;> rw [← Bool.not_eq_true, FeedResult.isValid_iff]
      · rintro ⟨pl, ig, sp, hv⟩
        exact hnoth pl ig sp hv
      · rintro ⟨pl, ig, sp, hv⟩
        exact hnotp pl ig sp hv

theorem linkInv_linkFeed {b : Byte} {prov : Option Prov} {s : State} (h : LinkInv s)
    (hprov : prov.isSome = true) : LinkInv (linkFeed b prov s) :=
  linkInv_arbitrate (dcdInv_dcdFeed h.1 hprov) (dcdInv_dcdFeed h.2 hprov)

theorem linkInv_actDcdByte {b : Byte} {s : State} (h : LinkInv s) (hbuf : s.win.buf ≠ []) :
    LinkInv (actDcdByte b s) := by
  have hfed : LinkInv (linkFeed b (peekResult s 1).1 s) := linkInv_linkFeed h (by simp [hbuf])
  exact hfed

theorem skip_decoders (s : State) : (skip s).h2p = s.h2p ∧ (skip s).p2h = s.p2h := by
  obtain ⟨outs, h, -⟩ := skip_spec s
  rw [h]
  exact ⟨rfl, rfl⟩

/-- One `act` writes a decoder at site `Dcd` only, where the window gives the byte its provenance. -/
theorem Acted.linkInv {s t : State} (ht : Acted s t) (h : LinkInv s) : LinkInv t := by
  cases ht with
  | miss =>
    obtain ⟨hh, hp⟩ := skip_decoders s
    exact ⟨(hh ▸ h.1 :), (hp ▸ h.2 :)⟩
  | link b hbuf => exact linkInv_actDcdByte h hbuf
  | move | fail | gcrAddr | mfmAddr | mfmIndex | record | drained => exact h

theorem linkInv_resume {s : State} (h : LinkInv s) : LinkInv (resume s) :=
  resume_induct (fun s hs => (acted_act s).linkInv hs) s h

theorem linkInv_opByte {b : Byte} {s : State} (h : LinkInv s) : LinkInv (opByte b s) := by
  have hread : LinkInv (readByte b s) := h
  unfold opByte
  dsimp only
  split_ifs
  · exact linkInv_resume hread
  · exact hread

theorem linkInv_opIdle {s : State} (h : LinkInv s) : LinkInv (opIdle s) := by
  have hidle : LinkInv (framerIdle s) := framerIdle_eq s ▸ h
  exact linkInv_resume hidle

theorem linkInv_opReset (m : Mode) (s : State) : LinkInv (opReset m s) :=
  ⟨dcdInv_dcdReset none, dcdInv_dcdReset none⟩

theorem linkInv_whenRunning {f : State → State} {s : State} (h : LinkInv s) (hf : LinkInv (f s)) :
    LinkInv (whenRunning f s) := by
  rcases whenRunning_cases f s with ⟨-, heq⟩ | ⟨-, q, heq⟩
  · exact heq ▸ hf
  · exact heq ▸ h

/-- The words of the input port keep the decoders legal; the records of the table need a window. -/
theorem linkInv_exec_word {w : InputWord} {i : Instr} {s t : State} (hw : decodeWord w = .ok i)
    (h : LinkInv s) (he : exec i s = .next t) : LinkInv t := by
  rcases decodeWord_cases hw with rfl | ⟨b, rfl⟩ | ⟨m, rfl⟩ | rfl <;> cases he
  · exact linkInv_whenRunning h (linkInv_opIdle h)
  · exact linkInv_whenRunning h (linkInv_opByte h)
  · exact linkInv_opReset m s
  · exact linkInv_whenRunning h h

theorem SequencerInv.not_busy {s : State} (h : SequencerInv s) : s.busy = false := by
  simp [State.busy, h.waiting]

end Sys2Proof.Machine

open Sys2Proof Sys2Proof.Machine

/-- Settles O55: a read is pending, so a step runs a word, and every feed it causes takes its byte from a
window that is not empty. -/
theorem linkInvIsKept : Obligations.LinkInvIsKept := by
  intro s t hseq hlink hstep
  have hread : ∀ ws, LinkInv { s with input := ws } := fun _ => hlink
  rcases step_cases hstep with ⟨hbusy, -⟩ | ⟨-, ⟨-, rfl⟩ | ⟨w, ws, -, ⟨i, hw, he⟩ | ⟨r, -, rfl⟩⟩⟩
  · simp [hseq.not_busy] at hbusy
  · exact hlink
  · exact linkInv_exec_word hw (hread ws) he
  · obtain ⟨q, hq⟩ := refuseReserved_eq r { s with input := ws }
    exact hq ▸ hread ws

end

section
/-! The statements about the whole state: the refusal, the capture port, the control state, the geometry
registers and the framer (10_state.md R31 to R46). -/

namespace Sys2Proof.Machine

/-! ## The refusal -/

@[simp] theorem opByte_refused (b : Byte) (s : State) : (opByte b s).refused = s.refused := by
  rcases opByte_work b s with h | h
  · rw [h, readByte_refused]
  · rw [h.refused, readByte_refused]

@[simp] theorem framerIdle_refused (s : State) : (framerIdle s).refused = s.refused := by
  rw [framerIdle_eq]

@[simp] theorem opIdle_refused (s : State) : (opIdle s).refused = s.refused :=
  (opIdle_work s).refused.trans (framerIdle_refused s)

theorem refuse_keeps_reason {r : RefuseReason} (q : RefuseReason) {s : State}
    (h : s.refused = some r) : (refuse q s).refused = some r := by
  simp [h]

theorem Ran.keeps_reason {s t : State} {i : Instr} {r : RefuseReason} (ht : Ran s i t)
    (h : s.refused = some r) : t.refused = some r := by
  cases ht with
  | reset m => exact h
  | idle => rw [opIdle_refused, h]
  | byte b => rw [opByte_refused, h]
  | stop => exact h
  | refused i q => exact refuse_keeps_reason q h
  | record hi ht => rw [ht.seqWork.refused, h]
  | frame hi b bs => rw [(seqWork_feedBytes (b :: bs) s (by simp)).refused, h]

/-! ## The capture port -/

theorem capture_not_mem {outs : List Output} (h : outs.filterMap Output.capture? = []) :
    ∀ o ∈ outs, ∀ e, o ≠ .capture e := by
  rintro o ho e rfl
  simpa [Output.capture?] using List.filterMap_eq_nil_iff.mp h _ ho

/-- The capture entry of a BYTE comes first, and the sequencer's work adds none (R43, R155). -/
theorem opByte_trace (b : Byte) (s : State) : ∃ outs, (opByte b s).trace =
    s.trace ++ .capture ⟨(tagByte s.cfg s.mode s.fr b).1.txn, (tagByte s.cfg s.mode s.fr b).1.dir, b⟩
      :: outs ∧ outs.filterMap Output.capture? = [] := by
  rcases opByte_work b s with h | h
  · exact ⟨[], by rw [h, readByte_trace], rfl⟩
  · obtain ⟨outs, htrace, hcap⟩ := h.trace
    exact ⟨outs, by rw [htrace, readByte_trace, List.append_assoc]; rfl, hcap⟩

theorem opIdle_capture (s : State) : (opIdle s).capture = s.capture := by
  rw [(opIdle_work s).capture_eq, framerIdle_eq]
  rfl

theorem Ran.capture_eq {s t : State} {i : Instr} (ht : Ran s i t)
    (hi : s.run ≠ .running ∨ ∀ b, i ≠ .byte b) : t.capture = s.capture := by
  cases ht with
  | reset m => rfl
  | idle => exact opIdle_capture s
  | byte b hrun => simp [hrun] at hi
  | stop => rfl
  | refused i q => rfl
  | record _ ht => exact ht.seqWork.capture_eq
  | frame _ b bs => exact (seqWork_feedBytes (b :: bs) s (by simp)).capture_eq

/-! ## The control state -/

theorem opByte_control (b : Byte) (s : State) :
    (opByte b s).mode = s.mode ∧ (opByte b s).run = s.run := by
  rcases opByte_work b s with h | h
  · rw [h]
    exact ⟨rfl, rfl⟩
  · exact ⟨h.mode, h.run⟩

theorem opIdle_control (s : State) : (opIdle s).mode = s.mode ∧ (opIdle s).run = s.run := by
  rw [(opIdle_work s).mode, (opIdle_work s).run, framerIdle_eq]
  exact ⟨rfl, rfl⟩

theorem Ran.control {s t : State} {i : Instr} (ht : Ran s i t) (hi : ∀ m, i ≠ .reset m) :
    t.mode = s.mode ∧ t.run = (if i = .stop ∧ s.run = .running then .stopped else s.run) := by
  cases ht with
  | reset m => exact absurd rfl (hi m)
  | idle => simpa using opIdle_control s
  | byte b => simpa using opByte_control b s
  | stop hrun => simp [hrun, opStop]
  | refused i q hrun => simp [hrun]
  | record hstop ht => simp [hstop, ht.seqWork.mode, ht.seqWork.run]
  | frame hstop b bs =>
    have h := seqWork_feedBytes (b :: bs) s (by simp)
    simp [hstop, h.mode, h.run]

/-! ## The geometry registers -/

/-- No GCR address mark is reported among the outputs. -/
def NoGcrMark (outs : List Output) : Prop :=
  ∀ p tr sec side fmt, .event (.gcrAddressMark p tr sec side fmt) ∉ outs

/-- No MFM address mark is reported among the outputs. -/
def NoMfmMark (outs : List Output) : Prop :=
  ∀ p tr side sec z, .event (.mfmAddressMark p tr side sec z) ∉ outs

theorem NoGcrMark.of_append {os qs : List Output} (h : NoGcrMark (os ++ qs)) :
    NoGcrMark os ∧ NoGcrMark qs := by
  simp only [NoGcrMark, List.mem_append, not_or] at h
  exact ⟨fun p tr sec side fmt => (h p tr sec side fmt).1, fun p tr sec side fmt => (h p tr sec side fmt).2⟩

theorem NoMfmMark.of_append {os qs : List Output} (h : NoMfmMark (os ++ qs)) :
    NoMfmMark os ∧ NoMfmMark qs := by
  simp only [NoMfmMark, List.mem_append, not_or] at h
  exact ⟨fun p tr side sec z => (h p tr side sec z).1, fun p tr side sec z => (h p tr side sec z).2⟩

/-- The trace grows from `s` to `t`, and a geometry register differs only where its mark is reported. -/
def GeomWork (s t : State) : Prop :=
  ∃ outs, t.trace = s.trace ++ outs ∧ (NoGcrMark outs → t.ggeom = s.ggeom) ∧
    (NoMfmMark outs → t.mgeom = s.mgeom)

theorem GeomWork.of_kept {s t : State} {outs : List Output} (htrace : t.trace = s.trace ++ outs)
    (hg : t.ggeom = s.ggeom) (hm : t.mgeom = s.mgeom) : GeomWork s t :=
  ⟨outs, htrace, fun _ => hg, fun _ => hm⟩

theorem GeomWork.refl (s : State) : GeomWork s s := .of_kept (List.append_nil _).symm rfl rfl

theorem GeomWork.trans {s t u : State} (h : GeomWork s t) (g : GeomWork t u) : GeomWork s u := by
  obtain ⟨os, ho, hog, hom⟩ := h
  obtain ⟨qs, hq, hqg, hqm⟩ := g
  refine ⟨os ++ qs, by rw [hq, ho, List.append_assoc], fun hn => ?_, fun hn => ?_⟩
  · exact (hqg hn.of_append.2).trans (hog hn.of_append.1)
  · exact (hqm hn.of_append.2).trans (hom hn.of_append.1)

theorem geomWork_actDcdByte (b : Byte) (s : State) : GeomWork s (actDcdByte b s) := by
  have h := linkWork_linkFeed b (peekResult s 1).1 s
  obtain ⟨outs, htrace, -⟩ := h.trace
  exact .of_kept htrace h.ggeom h.mgeom

theorem geomWork_skip (s : State) : GeomWork s (skip s) := by
  obtain ⟨outs, h, -⟩ := skip_spec s
  rw [h]
  exact .of_kept rfl rfl rfl

theorem Acted.geomWork {s t : State} (ht : Acted s t) : GeomWork s t := by
  cases ht with
  | move => exact .refl s
  | miss => exact geomWork_skip s
  | fail e => exact .of_kept rfl rfl rfl
  | gcrAddr p g => exact ⟨_, rfl, fun h => (h _ _ _ _ _ (List.mem_singleton.mpr rfl)).elim, fun _ => rfl⟩
  | mfmAddr p g => exact ⟨_, rfl, fun _ => rfl, fun h => (h _ _ _ _ _ (List.mem_singleton.mpr rfl)).elim⟩
  | mfmIndex p => exact .of_kept rfl rfl rfl
  | record n k p g d => exact .of_kept (emitRecord_trace k p g d s) rfl rfl
  | link b => exact geomWork_actDcdByte b s
  | drained => exact .refl s

theorem geomWork_resume (s : State) : GeomWork s (resume s) :=
  resume_induct (fun t h => h.trans (acted_act t).geomWork) s (.refl s)

theorem geomWork_feedBytes (bs : List Byte) (s : State) : GeomWork s (feedBytes bs s) := by
  induction bs generalizing s with
  | nil => exact .refl s
  | cons b bs ih => exact (geomWork_actDcdByte b s).trans (ih _)

theorem geomWork_opByte (b : Byte) (s : State) : GeomWork s (opByte b s) := by
  have hread : GeomWork s (readByte b s) := .of_kept (readByte_trace b s) rfl rfl
  unfold opByte
  dsimp only
  split_ifs
  · exact hread.trans (geomWork_resume _)
  · exact hread

theorem geomWork_opIdle (s : State) : GeomWork s (opIdle s) := by
  have hidle : GeomWork s (framerIdle s) := framerIdle_eq s ▸ .refl s
  exact hidle.trans (geomWork_resume { framerIdle s with win := ⟨(framerIdle s).win.buf, true⟩ })

theorem Ran.geomWork {s t : State} {i : Instr} (ht : Ran s i t) (hi : ∀ m, i ≠ .reset m) :
    GeomWork s t := by
  cases ht with
  | reset m => exact absurd rfl (hi m)
  | idle => exact geomWork_opIdle s
  | byte b => exact geomWork_opByte b s
  | stop => exact .refl s
  | refused => exact .refl s
  | record _ ht => exact ht.geomWork
  | frame _ b bs => exact geomWork_feedBytes (b :: bs) s

/-! ## The framer -/

theorem wrapInc_lt (bits n : Nat) : wrapInc bits n < 2 ^ bits := Nat.mod_lt _ (Nat.two_pow_pos bits)

theorem SeqWork.framerInv {s t : State} (h : SeqWork s t) (hs : FramerInv s) : FramerInv t where
  nextTxn := by rw [h.fr, h.cfg]; exact hs.nextTxn
  txn := by rw [h.fr, h.cfg]; exact hs.txn
  off := by rw [h.fr, h.cfg]; exact hs.off
  mfm := by rw [h.fr, h.mode]; exact hs.mfm

/-- A tag advances the offset, in a new transaction where one opens, which MFM mode never does (R181 to
R183). -/
theorem tagByte_framer_cases (cfg : Config) (m : Mode) (fr : Framer) (b : Byte) :
    (tagByte cfg m fr b).2 = advanceOff cfg fr ∨
    (m ≠ .mfm ∧ ∃ d, (tagByte cfg m fr b).2 = advanceOff cfg { openTxn cfg fr with lastDir := d }) := by
  cases m with
  | dcd =>
    simp only [tagByte, tagDcd]
    split_ifs
    · exact .inl rfl
    · exact .inr ⟨by simp, fr.lastDir, rfl⟩
  | gcr =>
    simp only [tagByte, tagGcr]
    split_ifs
    · exact .inl rfl
    · exact .inr ⟨by simp, bit7 b, rfl⟩
  | mfm => exact .inl rfl

theorem framerInv_readByte (b : Byte) {s : State} (h : FramerInv s) : FramerInv (readByte b s) := by
  rcases tagByte_framer_cases s.cfg s.mode s.fr b with ht | ⟨hm, d, ht⟩
  · constructor <;> rw [readByte_fr, ht]
    · exact h.nextTxn
    · exact h.txn
    · exact wrapInc_lt ..
    · exact h.mfm
  · constructor <;> rw [readByte_fr, ht]
    · exact wrapInc_lt ..
    · exact h.nextTxn
    · exact wrapInc_lt ..
    · exact fun hmfm => absurd hmfm hm

theorem framerInv_opByte (b : Byte) {s : State} (h : FramerInv s) : FramerInv (opByte b s) := by
  rcases opByte_work b s with hb | hb
  · exact hb ▸ framerInv_readByte b h
  · exact hb.framerInv (framerInv_readByte b h)

theorem framerInv_opIdle {s : State} (h : FramerInv s) : FramerInv (opIdle s) := by
  refine (opIdle_work s).framerInv ?_
  rw [framerIdle_eq]
  exact ⟨h.nextTxn, h.txn, h.off, h.mfm⟩

theorem framerInv_opReset (m : Mode) (s : State) : FramerInv (opReset m s) where
  nextTxn := Nat.two_pow_pos _
  txn := Nat.two_pow_pos _
  off := Nat.two_pow_pos _
  mfm := fun _ => ⟨rfl, rfl⟩

theorem Ran.framerInv {s t : State} {i : Instr} (ht : Ran s i t) (h : FramerInv s) : FramerInv t := by
  cases ht with
  | reset m => exact framerInv_opReset m s
  | idle => exact framerInv_opIdle h
  | byte b => exact framerInv_opByte b h
  | stop => exact ⟨h.nextTxn, h.txn, h.off, h.mfm⟩
  | refused i q => exact ⟨h.nextTxn, h.txn, h.off, h.mfm⟩
  | record _ ht => exact ht.seqWork.framerInv h
  | frame _ b bs => exact (seqWork_feedBytes (b :: bs) s (by simp)).framerInv h

end Sys2Proof.Machine

open Sys2Proof Sys2Proof.Machine

/-- Settles O46: no instruction writes a reason that is there. -/
theorem refusalIsStickyFromTheFirst : Obligations.RefusalIsStickyFromTheFirst := by
  refine ⟨rfl, fun s t r hstep hr => ?_, fun r s hs => by simp [hs]⟩
  exact step_keeps (P := fun s => s.refused = some r) (fun _ _ h => h)
    (fun q _ h => refuse_keeps_reason q h) (fun s h => (seqWork_act s).refused.trans h)
    (fun _ _ _ ht h => ht.keeps_reason h) hr hstep

/-- Settles O48: the read emits the entry, and the sequencer's work none. -/
theorem everyByteIsCapturedOnceAndFirst : Obligations.EveryByteIsCapturedOnceAndFirst := by
  refine ⟨fun s b hrun => ?_, fun s t i hi he => (ran_of_exec he).capture_eq hi⟩
  obtain ⟨outs, htrace, hcap⟩ := opByte_trace b s
  refine ⟨opByte b s, outs, ?_, htrace, capture_not_mem hcap⟩
  show Host.Outcome.next (whenRunning (opByte b) s) = _
  simp [whenRunning, hrun]

/-- Settles O50: STOP writes `run`, RESET writes both, and the sequencer's work writes neither. -/
theorem controlStateChangesOnlyByResetAndStop :
    Obligations.ControlStateChangesOnlyByResetAndStop := by
  refine ⟨rfl, fun s t m he => ?_, fun s t i hi he => (ran_of_exec he).control hi⟩
  cases he
  exact ⟨rfl, rfl⟩

/-- Settles O51: the outputs in the statement are those of `GeomWork`. -/
theorem geometryChangesOnlyAtAddressMarks : Obligations.GeometryChangesOnlyAtAddressMarks := by
  intro s t i outs hi he htrace
  obtain ⟨os, hos, hg, hm⟩ := (ran_of_exec he).geomWork hi
  obtain rfl : os = outs := List.append_cancel_left (hos.symm.trans htrace)
  exact ⟨hg, hm⟩

/-- Settles O54: a step's only writes of the framer are a tag, an IDLE and a RESET. -/
theorem framerInvIsKept : Obligations.FramerInvIsKept := fun _ _ hs hstep =>
  step_keeps (P := FramerInv) (fun _ _ h => ⟨h.nextTxn, h.txn, h.off, h.mfm⟩)
    (fun _ _ h => ⟨h.nextTxn, h.txn, h.off, h.mfm⟩) (fun s h => (seqWork_act s).framerInv h)
    (fun _ _ _ ht h => ht.framerInv h) hs hstep

/-- Settles O52: nothing is emitted yet, and the decoders are reset ones. -/
theorem invariantsHoldAtReset : Obligations.InvariantsHoldAtReset :=
  ⟨⟨rfl, by decide, rfl⟩, ⟨by decide, by decide, by decide, fun _ => ⟨rfl, rfl⟩⟩,
    ⟨dcdInv_dcdReset none, dcdInv_dcdReset none⟩, ⟨by simp [State.records, State.reset], rfl⟩⟩

end

section
/-! The configuration travels in the state and nothing writes it (R9, R84, R382). -/

namespace Sys2Proof.Machine

@[simp] theorem opByte_cfg (b : Byte) (s : State) : (opByte b s).cfg = s.cfg := by
  rcases opByte_work b s with h | h
  · rw [h, readByte_cfg]
  · rw [h.cfg, readByte_cfg]

@[simp] theorem framerIdle_cfg (s : State) : (framerIdle s).cfg = s.cfg := by
  rw [framerIdle_eq]

@[simp] theorem opIdle_cfg (s : State) : (opIdle s).cfg = s.cfg :=
  (opIdle_work s).cfg.trans (framerIdle_cfg s)

theorem Ran.cfg_eq {s t : State} {i : Instr} (ht : Ran s i t) : t.cfg = s.cfg := by
  cases ht with
  | reset m => rfl
  | idle => exact opIdle_cfg s
  | byte b => exact opByte_cfg b s
  | stop => rfl
  | refused i q => exact refuse_cfg q s
  | record _ ht => exact ht.seqWork.cfg
  | frame _ b bs => exact (seqWork_feedBytes (b :: bs) s (by simp)).cfg

end Sys2Proof.Machine

open Sys2Proof Sys2Proof.Machine

/-- Settles O49: an instruction, a refusal and the sequencer's work each leave the configuration alone. -/
theorem configurationIsNeverWritten : Obligations.ConfigurationIsNeverWritten := fun s _ hstep =>
  step_keeps (P := fun u => u.cfg = s.cfg) (fun _ _ h => h)
    (fun q u h => (refuse_cfg q u).trans h) (fun u h => (seqWork_act u).cfg.trans h)
    (fun _ _ _ ht h => ht.cfg_eq.trans h) rfl hstep

end

section
/-! The length of the DCD groups at the front of a byte string (30_encoding.md R131, R132): one
equation for each way a group can end or be followed, and the induction along them. -/

namespace Sys2Proof.Machine

theorem byteAt_append_left {xs : List Byte} (ys : List Byte) {i : Nat} (h : i < xs.length) :
    byteAt (xs ++ ys) i = byteAt xs i := by
  simp [byteAt, List.getD_eq_getElem?_getD, List.getElem?_append_left h]

theorem groupsLen_short (n : Nat) {bs : List Byte} (h : bs.length < 8) :
    groupsLen (n + 1) bs = bs.length := by
  simp [groupsLen, h]

theorem groupsDone_short (n : Nat) {bs : List Byte} (h : bs.length < 8) :
    groupsDone (n + 1) bs = false := by
  simp [groupsDone, h]

section
variable {g : List Byte} (hg : g.length = 8) (n : Nat) (bs : List Byte)
include hg

theorem drop_group : (g ++ bs).drop 8 = bs := by simp [← hg]

theorem take_group_add (k : Nat) : (g ++ bs).take (8 + k) = g ++ bs.take k := by
  simp [List.take_append, ← hg]

theorem groupsLen_last : groupsLen 1 (g ++ bs) = 8 := by
  simp [groupsLen, hg]

theorem groupsDone_last : groupsDone 1 (g ++ bs) = decide (bs = []) := by
  simp [groupsDone, hg]

theorem groupsLen_continued (hc : (byteAt g 7).msb = true) :
    groupsLen (n + 2) (g ++ bs) = 8 + groupsLen (n + 1) bs := by
  rw [groupsLen, drop_group hg, byteAt_append_left bs (by omega), if_neg (by simp [hg]),
    if_neg (by simp), if_pos hc]

theorem groupsDone_continued (hc : (byteAt g 7).msb = true) :
    groupsDone (n + 2) (g ++ bs) = groupsDone (n + 1) bs := by
  rw [groupsDone, drop_group hg, byteAt_append_left bs (by omega), if_neg (by simp [hg]),
    if_neg (by simp), if_pos hc]

theorem groupsLen_resumed (hc : (byteAt g 7).msb = false) :
    groupsLen (n + 2) (g ++ syncByte :: bs) = 9 + groupsLen (n + 1) bs := by
  rw [groupsLen, drop_group hg, byteAt_append_left _ (by omega), if_neg (by simp [hg]),
    if_neg (by simp), if_neg (by simp [hc])]
  exact if_pos rfl

theorem groupsDone_resumed (hc : (byteAt g 7).msb = false) :
    groupsDone (n + 2) (g ++ syncByte :: bs) = groupsDone (n + 1) bs := by
  rw [groupsDone, drop_group hg, byteAt_append_left _ (by omega), if_neg (by simp [hg]),
    if_neg (by simp), if_neg (by simp [hc])]
  exact Bool.true_and _

theorem groupsLen_stopped (hc : (byteAt g 7).msb = false) (hs : bs.head? ≠ some syncByte) :
    groupsLen (n + 2) (g ++ bs) = 8 := by
  rw [groupsLen, drop_group hg, byteAt_append_left bs (by omega), if_neg (by simp [hg]),
    if_neg (by simp), if_neg (by simp [hc])]
  cases bs with
  | nil => rfl
  | cons b rest => exact if_neg (by simpa using hs)

theorem groupsDone_stopped (hc : (byteAt g 7).msb = false) (hs : bs.head? ≠ some syncByte) :
    groupsDone (n + 2) (g ++ bs) = false := by
  rw [groupsDone, drop_group hg, byteAt_append_left bs (by omega), if_neg (by simp [hg]),
    if_neg (by simp), if_neg (by simp [hc])]
  cases bs with
  | nil => rfl
  | cons b rest => simpa using fun h => absurd h (by simpa using hs)

end

/-- Induction along the groups of a byte string. -/
theorem groups_induction {P : Nat → List Byte → Prop} (none : ∀ bs, P 0 bs)
    (short : ∀ n bs, bs.length < 8 → P (n + 1) bs)
    (last : ∀ g bs, g.length = 8 → P 1 (g ++ bs))
    (continued : ∀ n g bs, g.length = 8 → (byteAt g 7).msb = true → P (n + 1) bs →
      P (n + 2) (g ++ bs))
    (resumed : ∀ n g bs, g.length = 8 → (byteAt g 7).msb = false → P (n + 1) bs →
      P (n + 2) (g ++ syncByte :: bs))
    (stopped : ∀ n g bs, g.length = 8 → (byteAt g 7).msb = false → bs.head? ≠ some syncByte →
      P (n + 2) (g ++ bs)) (n : Nat) (bs : List Byte) : P n bs := by
  induction n generalizing bs with
  | zero => exact none bs
  | succ n ih =>
    by_cases hshort : bs.length < 8
    · exact short n bs hshort
    obtain ⟨g, bs, rfl, hg⟩ : ∃ g rest, bs = g ++ rest ∧ g.length = 8 :=
      ⟨bs.take 8, bs.drop 8, (List.take_append_drop 8 bs).symm, by rw [List.length_take]; omega⟩
    cases n with
    | zero => exact last g bs hg
    | succ n =>
      cases hc : (byteAt g 7).msb with
      | true => exact continued n g bs hg hc (ih bs)
      | false =>
        by_cases hs : bs.head? = some syncByte
        · obtain ⟨rest, rfl⟩ := List.head?_eq_some_iff.mp hs
          exact resumed n g rest hg hc (ih rest)
        · exact stopped n g bs hg hc hs

theorem groupsLen_le (n : Nat) (bs : List Byte) : groupsLen n bs ≤ bs.length := by
  induction n, bs using groups_induction with
  | none bs => exact Nat.zero_le _
  | short n bs h => exact (groupsLen_short n h).le
  | last g bs hg => simp [groupsLen_last hg, hg]
  | continued n g bs hg hc ih => simp [groupsLen_continued hg n bs hc, hg, ih]
  | resumed n g bs hg hc ih =>
    simp only [groupsLen_resumed hg n bs hc, List.length_append, hg, List.length_cons]
    omega
  | stopped n g bs hg hc hs => simp [groupsLen_stopped hg n bs hc hs, hg]

/-- The bytes that belong to the groups are the groups of their own first part. -/
theorem groupsLen_take (n : Nat) (bs : List Byte) :
    groupsLen n (bs.take (groupsLen n bs)) = groupsLen n bs := by
  induction n, bs using groups_induction with
  | none bs => rfl
  | short n bs h => rw [groupsLen_short n h, List.take_length, groupsLen_short n h]
  | last g bs hg => rw [groupsLen_last hg, take_group_add hg bs 0, groupsLen_last hg]
  | continued n g bs hg hc ih =>
    rw [groupsLen_continued hg n bs hc, take_group_add hg, groupsLen_continued hg n _ hc, ih]
  | resumed n g bs hg hc ih =>
    rw [groupsLen_resumed hg n bs hc, show 9 + groupsLen (n + 1) bs = 8 + (groupsLen (n + 1) bs + 1)
      by omega, take_group_add hg, List.take_succ_cons, groupsLen_resumed hg n _ hc, ih]
    omega
  | stopped n g bs hg hc hs =>
    rw [groupsLen_stopped hg n bs hc hs, take_group_add hg bs 0]
    exact groupsLen_stopped hg n [] hc (by simp)

/-- Where the bytes are all of the groups, the groups end with them whatever follows. -/
theorem groupsLen_of_done {n : Nat} {bs : List Byte} (h : groupsDone n bs = true)
    (rest : List Byte) : groupsLen n (bs ++ rest) = bs.length := by
  induction n, bs using groups_induction with
  | none bs => simp_all [groupsDone, groupsLen]
  | short n bs hshort => simp [groupsDone_short n hshort] at h
  | last g bs hg =>
    obtain rfl : bs = [] := by simpa [groupsDone_last hg] using h
    simp [groupsLen_last hg, hg]
  | continued n g bs hg hc ih =>
    rw [groupsDone_continued hg n bs hc] at h
    simp [groupsLen_continued hg n _ hc, ih h, hg]
  | resumed n g bs hg hc ih =>
    rw [groupsDone_resumed hg n bs hc] at h
    simp [groupsLen_resumed hg n _ hc, ih h, hg]
    omega
  | stopped n g bs hg hc hs => simp [groupsDone_stopped hg n bs hc hs] at h

end Sys2Proof.Machine
end

section
/-! The input words: one equation of the decoder for each kind (30_encoding.md R110 to R115). -/

namespace Sys2Proof

theorem inputWord_kind_cases (w : InputWord) : w.extractLsb' 8 2 = 0b00#2 ∨
    w.extractLsb' 8 2 = 0b01#2 ∨ w.extractLsb' 8 2 = 0b10#2 ∨ w.extractLsb' 8 2 = 0b11#2 := by
  generalize w.extractLsb' 8 2 = k
  revert k
  decide

/-- A word is its kind and its data (R110). -/
theorem inputWord_eq_append (w : InputWord) : w.extractLsb' 8 2 ++ w.extractLsb' 0 8 = w := by
  rw [BitVec.extractLsb'_append_extractLsb'_eq_extractLsb' (by omega)]
  simp

section
variable {w : InputWord}

theorem decodeWord_idle (h : w.extractLsb' 8 2 = 0b00#2) :
    decodeWord w = if w.extractLsb' 0 8 = 0#8 then .ok .idle else .error .reservedBits := by
  simp [decodeWord, h]

theorem decodeWord_byte (h : w.extractLsb' 8 2 = 0b01#2) :
    decodeWord w = .ok (.byte (w.extractLsb' 0 8)) := by
  simp [decodeWord, h]

theorem decodeWord_reset (h : w.extractLsb' 8 2 = 0b10#2) :
    decodeWord w = if w.extractLsb' 2 6 = 0#6 then (decodeMode (w.extractLsb' 0 2)).map .reset
      else .error .reservedBits := by
  have hbits : (w.extractLsb' 0 8).extractLsb' 2 6 = w.extractLsb' 2 6 := by
    simp
  have hmode : (w.extractLsb' 0 8).extractLsb' 0 2 = w.extractLsb' 0 2 := by
    simp
  simp only [decodeWord, h, hbits, hmode]
  cases decodeMode (w.extractLsb' 0 2) <;> rfl

theorem decodeWord_stop (h : w.extractLsb' 8 2 = 0b11#2) :
    decodeWord w = if w.extractLsb' 0 8 = 0#8 then .ok .stop else .error .reservedBits := by
  simp [decodeWord, h]

end

theorem decodeMode_eq_ok_iff (mm : BitVec 2) (m : Mode) :
    decodeMode mm = .ok m ↔ mm = encodeMode m := by
  revert mm
  cases m <;> decide

theorem decodeWord_encode {i : Instr} {w : InputWord} (he : encode i = .word w) :
    decodeWord w = .ok i := by
  cases i <;> cases he
  case idle => rfl
  case byte b =>
    rw [decodeWord_byte (BitVec.extractLsb'_append_eq_left ..), BitVec.extractLsb'_append_eq_right]
  case reset m => cases m <;> rfl
  case stop => rfl

theorem encode_of_decodeWord {w : InputWord} {i : Instr} (h : decodeWord w = .ok i) :
    encode i = .word w := by
  rw [← inputWord_eq_append w]
  rcases inputWord_kind_cases w with hk | hk | hk | hk
  · rw [decodeWord_idle hk] at h
    split_ifs at h with hd
    cases h
    rw [hk, hd]
    rfl
  · rw [decodeWord_byte hk] at h
    cases h
    rw [hk]
    rfl
  · rw [decodeWord_reset hk] at h
    split_ifs at h with hd
    cases hm : decodeMode (w.extractLsb' 0 2) with
    | error e => simp [hm, Except.map] at h
    | ok m =>
      simp only [hm, Except.map] at h
      cases h
      have hdata : w.extractLsb' 2 6 ++ w.extractLsb' 0 2 = w.extractLsb' 0 8 :=
        BitVec.extractLsb'_append_extractLsb'_eq_extractLsb' (by omega)
      rw [hk, ← hdata, hd, (decodeMode_eq_ok_iff _ _).mp hm]
      rfl
  · rw [decodeWord_stop hk] at h
    split_ifs at h with hd
    cases h
    rw [hk, hd]
    rfl

end Sys2Proof

open Sys2Proof Sys2Proof.Machine

/-- Settles O1: a mask picks the fields that the decoder reads. -/
theorem inputWordsDecodeByKind : Obligations.InputWordsDecodeByKind := by
  intro w
  have field {m v : InputWord} (i n : Nat) (h : w &&& m = v)
      (hm : m.extractLsb' i n = BitVec.allOnes n) : w.extractLsb' i n = v.extractLsb' i n := by
    rw [← h, BitVec.extractLsb'_and, hm, BitVec.and_allOnes]
  refine ⟨fun h => ?_, fun h => ?_, fun h => ?_, fun h => ?_⟩
  · rw [decodeWord_idle (field 8 2 h rfl), field 0 8 h rfl]
    rfl
  · exact decodeWord_byte (field 8 2 h rfl)
  · rw [decodeWord_reset (field 8 2 h rfl), field 2 6 h rfl]
    refine ⟨?_, ?_, ?_, ?_⟩ <;> intro hmode <;> rw [hmode] <;> rfl
  · rw [decodeWord_stop (field 8 2 h rfl), field 0 8 h rfl]
    rfl

/-- Settles O2: each kind's equation, and `refused` by cases. -/
theorem reservedWordsAreRefused : Obligations.ReservedWordsAreRefused := by
  refine ⟨fun w => ⟨?_, ?_, ?_⟩, fun s => ?_⟩
  · rintro ⟨hk | hk, hd⟩
    · rw [decodeWord_idle hk, if_neg hd]
    · rw [decodeWord_stop hk, if_neg hd]
  · rintro ⟨hk, hbits⟩
    rw [decodeWord_reset hk, if_neg hbits]
  · rintro ⟨hk, hbits, hmode⟩
    rw [decodeWord_reset hk, if_pos hbits, hmode]
    rfl
  · cases hr : s.refused <;> simp [refuseReserved, refuse, hr]
end

section
/-! Decoding undoes encoding, and encoding decoding (30_encoding.md R110 to R133). -/

namespace Sys2Proof

open Machine

/-! ## The front of a byte string -/

theorem decodeGcrRecord_addr (x : List Byte) :
    decodeGcrRecord (sigGcrAddr ++ x) = some (.gcrAddressMark (x.take 7), x.drop 7) := by
  simp [decodeGcrRecord, sigGcrAddr]

theorem decodeGcrRecord_data (x : List Byte) :
    decodeGcrRecord (sigGcrData ++ x) = some (.gcrDataMark (x.take 706), x.drop 706) := by
  simp [decodeGcrRecord, sigGcrData, sigGcrAddr]

theorem decodeMfmRecord_index (x : List Byte) :
    decodeMfmRecord (sigMfmIndex ++ x) = some (.mfmIndexMark, x) := by
  simp [decodeMfmRecord, sigMfmIndex]

theorem decodeMfmRecord_addr (x : List Byte) :
    decodeMfmRecord (sigMfmAddr ++ x) = some (.mfmAddressMark (x.take 6), x.drop 6) := by
  simp [decodeMfmRecord, sigMfmIndex, sigMfmAddr]

theorem decodeMfmRecord_data (x : List Byte) :
    decodeMfmRecord (sigMfmData ++ x) = some (.mfmDataMark (x.take 514), x.drop 514) := by
  simp [decodeMfmRecord, sigMfmIndex, sigMfmAddr, sigMfmData]

theorem decodeDcdFrame_none (x : List Byte) : decodeDcdFrame none (syncByte :: x) =
    some (.dcdFrame (x.take (frameBodyLen x)), x.drop (frameBodyLen x)) := by
  simp [decodeDcdFrame]

theorem decodeDcdFrame_some {n : Bits7} (hn : n ≠ 0) (x : List Byte) :
    decodeDcdFrame (some n) (syncByte :: x) =
      some (.dcdReply n (x.take (replyBodyLen n x)), x.drop (replyBodyLen n x)) := by
  rw [decodeDcdFrame, if_pos rfl]
  exact if_neg hn

/-- A seed of 0 is no seed (R214). -/
theorem decodeDcdFrame_zero (x : List Byte) :
    decodeDcdFrame (some 0) (syncByte :: x) = decodeDcdFrame none (syncByte :: x) := by
  simp [decodeDcdFrame]

theorem eq_append_drop {sig bs : List Byte} {n : Nat} (h : bs.take n = sig) :
    bs = sig ++ bs.drop n :=
  h ▸ (List.take_append_drop n bs).symm

theorem decodeGcrRecord_cases {bs rest : List Byte} {i : Instr}
    (h : decodeGcrRecord bs = some (i, rest)) : ∃ x,
      (bs = sigGcrAddr ++ x ∧ i = .gcrAddressMark (x.take 7) ∧ rest = x.drop 7) ∨
      (bs = sigGcrData ++ x ∧ i = .gcrDataMark (x.take 706) ∧ rest = x.drop 706) := by
  refine ⟨bs.drop 3, ?_⟩
  unfold decodeGcrRecord at h
  split_ifs at h with haddr hdata <;> cases h
  · exact .inl ⟨eq_append_drop haddr, rfl, by simp⟩
  · exact .inr ⟨eq_append_drop hdata, rfl, by simp⟩

theorem decodeMfmRecord_cases {bs rest : List Byte} {i : Instr}
    (h : decodeMfmRecord bs = some (i, rest)) : ∃ x,
      (bs = sigMfmIndex ++ x ∧ i = .mfmIndexMark ∧ rest = x) ∨
      (bs = sigMfmAddr ++ x ∧ i = .mfmAddressMark (x.take 6) ∧ rest = x.drop 6) ∨
      (bs = sigMfmData ++ x ∧ i = .mfmDataMark (x.take 514) ∧ rest = x.drop 514) := by
  refine ⟨bs.drop 4, ?_⟩
  unfold decodeMfmRecord at h
  split_ifs at h with hindex haddr hdata <;> cases h
  · exact .inl ⟨eq_append_drop hindex, rfl, rfl⟩
  · exact .inr (.inl ⟨eq_append_drop haddr, rfl, by simp⟩)
  · exact .inr (.inr ⟨eq_append_drop hdata, rfl, by simp⟩)

theorem decodeDcdFrame_cases {seed : Option Bits7} {bs rest : List Byte} {i : Instr}
    (h : decodeDcdFrame seed bs = some (i, rest)) : ∃ x, bs = syncByte :: x ∧
      ((i = .dcdFrame (x.take (frameBodyLen x)) ∧ rest = x.drop (frameBodyLen x)) ∨
       ∃ n, n ≠ 0 ∧ i = .dcdReply n (x.take (replyBodyLen n x)) ∧
        rest = x.drop (replyBodyLen n x)) := by
  cases bs with
  | nil => simp [decodeDcdFrame] at h
  | cons b x =>
    obtain rfl : b = syncByte := by
      by_contra hb
      simp [decodeDcdFrame, hb] at h
    refine ⟨x, rfl, ?_⟩
    cases seed with
    | none =>
      rw [decodeDcdFrame_none] at h
      cases h
      exact .inl ⟨rfl, rfl⟩
    | some n =>
      by_cases hn : n = 0
      · rw [hn, decodeDcdFrame_zero, decodeDcdFrame_none] at h
        cases h
        exact .inl ⟨rfl, rfl⟩
      · rw [decodeDcdFrame_some hn] at h
        cases h
        exact .inr ⟨n, hn, rfl, rfl⟩

/-! ## The frame of the unseeded form -/

theorem frameBodyLen_le (bs : List Byte) : frameBodyLen bs ≤ bs.length := by
  match bs with
  | [] => exact le_rfl
  | [_] => exact le_rfl
  | outG :: _ :: rest =>
    have := groupsLen_le (low7 outG).toNat rest
    simp [frameBodyLen]
    omega

theorem frameBodyLen_take (bs : List Byte) :
    frameBodyLen (bs.take (frameBodyLen bs)) = frameBodyLen bs := by
  match bs with
  | [] => rfl
  | [_] => rfl
  | outG :: inG :: rest =>
    simp [frameBodyLen, Nat.add_comm 2, groupsLen_take]

theorem frameBodyLen_of_done {bs : List Byte} (h : frameDone bs = true) (rest : List Byte) :
    frameBodyLen (bs ++ rest) = bs.length := by
  match bs with
  | [] => simp [frameDone] at h
  | [_] => simp [frameDone] at h
  | outG :: _ :: groups =>
    have := groupsLen_of_done (n := (low7 outG).toNat) h rest
    simp [frameBodyLen, this]
    omega

/-! ## The two directions -/

/-- A field of `n` bytes ends where its bytes end, if they are all there or nothing follows them. -/
theorem take_drop_field {body rest : List Byte} {n : Nat}
    (h : body.length = n ∨ (rest = [] ∧ body.length ≤ n)) :
    (body ++ rest).take n = body ∧ (body ++ rest).drop n = rest := by
  rcases h with rfl | ⟨rfl, h⟩
  · simp
  · simp [h]

/-- The decoder reads a well-formed record back, if the record is complete or nothing follows it. -/
theorem decodeRecord_encode {i : Instr} {ctx : RecordContext} {bs rest : List Byte}
    (hwf : i.wf = true) (hend : i.complete = true ∨ rest = []) (he : encode i = .record ctx bs) :
    decodeRecord ctx (bs ++ rest) = some (i, rest) := by
  have field (body : List Byte) (n : Nat) (hc : i.complete = true → body.length = n)
      (hle : body.length ≤ n) : (body ++ rest).take n = body ∧ (body ++ rest).drop n = rest :=
    take_drop_field (hend.imp hc fun h => ⟨h, hle⟩)
  cases i <;> cases he
  case gcrAddressMark body =>
    obtain ⟨ht, hd⟩ := field body 7 (by simp [Instr.complete]) (by simpa [Instr.wf] using hwf)
    simp [decodeRecord, decodeGcrRecord_addr, ht, hd]
  case gcrDataMark body =>
    obtain ⟨ht, hd⟩ := field body 706 (by simp [Instr.complete]) (by simpa [Instr.wf] using hwf)
    simp [decodeRecord, decodeGcrRecord_data, ht, hd]
  case mfmIndexMark => exact decodeMfmRecord_index rest
  case mfmAddressMark body =>
    obtain ⟨ht, hd⟩ := field body 6 (by simp [Instr.complete]) (by simpa [Instr.wf] using hwf)
    simp [decodeRecord, decodeMfmRecord_addr, ht, hd]
  case mfmDataMark body =>
    obtain ⟨ht, hd⟩ := field body 514 (by simp [Instr.complete]) (by simpa [Instr.wf] using hwf)
    simp [decodeRecord, decodeMfmRecord_data, ht, hd]
  case dcdFrame body =>
    have hlen : frameBodyLen (body ++ rest) = body.length := by
      rcases hend with hc | rfl
      · exact frameBodyLen_of_done hc rest
      · simpa [Instr.wf] using hwf
    simp [decodeRecord, decodeDcdFrame_none, hlen]
  case dcdReply seed body =>
    obtain ⟨hseed, hbody⟩ : seed ≠ 0 ∧ replyBodyLen seed body = body.length := by
      simpa [Instr.wf] using hwf
    have hlen : replyBodyLen seed (body ++ rest) = body.length := by
      rcases hend with hc | rfl
      · exact groupsLen_of_done hc rest
      · simpa using hbody
    simp [decodeRecord, decodeDcdFrame_some hseed, hlen]

/-- A record that decodes is well-formed, and its bytes are its encoding and what is left. -/
theorem encode_of_decodeRecord {ctx : RecordContext} {bs rest : List Byte} {i : Instr}
    (h : decodeRecord ctx bs = some (i, rest)) :
    i.wf = true ∧ ∃ ctx' bs', encode i = .record ctx' bs' ∧ bs = bs' ++ rest := by
  cases ctx with
  | gcr =>
    obtain ⟨x, ⟨rfl, rfl, rfl⟩ | ⟨rfl, rfl, rfl⟩⟩ := decodeGcrRecord_cases h
    · exact ⟨by simp [Instr.wf], _, _, rfl, by simp⟩
    · exact ⟨by simp [Instr.wf], _, _, rfl, by simp⟩
  | mfm =>
    obtain ⟨x, ⟨rfl, rfl, rfl⟩ | ⟨rfl, rfl, rfl⟩ | ⟨rfl, rfl, rfl⟩⟩ := decodeMfmRecord_cases h
    · exact ⟨rfl, _, _, rfl, rfl⟩
    · exact ⟨by simp [Instr.wf], _, _, rfl, by simp⟩
    · exact ⟨by simp [Instr.wf], _, _, rfl, by simp⟩
  | dcd seed =>
    obtain ⟨x, rfl, ⟨rfl, rfl⟩ | ⟨n, hn, rfl, rfl⟩⟩ := decodeDcdFrame_cases h
    · refine ⟨?_, _, _, rfl, by simp⟩
      simp [Instr.wf, frameBodyLen_take, frameBodyLen_le]
    · refine ⟨?_, _, _, rfl, by simp⟩
      simpa [Instr.wf, replyBodyLen, groupsLen_take, groupsLen_le] using hn

end Sys2Proof

open Sys2Proof Sys2Proof.Machine

/-- Settles O4: a word by its kind, and a record with nothing after it. -/
theorem decodeUndoesEncode : Obligations.DecodeUndoesEncode := by
  intro i hwf
  cases he : encode i with
  | word w => simp [decode, decodeWord_encode he]
  | record ctx bs =>
    have h := decodeRecord_encode (rest := []) hwf (.inr rfl) he
    rw [List.append_nil] at h
    simp [decode, h]

/-- Settles O5: a complete record's fields end with its bytes. -/
theorem completeRecordsEndWhereTheyEnd : Obligations.CompleteRecordsEndWhereTheyEnd :=
  fun _ _ _ _ hwf hc he => decodeRecord_encode hwf (.inl hc) he

/-- Settles O6: the decoder's own cases, each with its signature put back. -/
theorem encodeUndoesDecode : Obligations.EncodeUndoesDecode :=
  ⟨fun _ _ => encode_of_decodeWord, fun _ _ _ _ => encode_of_decodeRecord⟩

/-- Settles O3: the decoder runs on each of the ten byte strings. -/
theorem signaturesDecodeToRecords : Obligations.SignaturesDecodeToRecords := by
  refine ⟨?_, ?_, ?_, ?_, ?_, ?_, ?_, ?_, ?_, ?_⟩ <;> rfl

end

section
/-! A placed row of the opcode table is what the next step runs: an input word is read by a block
that waits, and a record stands at the site that evaluates it (log entries 9 and 10). -/

namespace Sys2Proof.Machine

/-! ## An input word -/

theorem want_pos (m : Mode) (site : Site) : 0 < want m site := by
  cases site <;> cases m <;> decide

/-- A placed word is read, and an input port is restored. -/
theorem step_loadWord {w : InputWord} {i : Instr} (hw : decodeWord w = .ok i) (s : State) :
    step (loadWord w s) = exec i (if s.busy = true then { s with win := ⟨[], false⟩ } else s) := by
  unfold step loadWord
  cases hb : s.busy with
  | true =>
    have hwait : State.busy { s with win := ⟨[], false⟩, input := w :: s.input } = false := by
      simp [State.busy, State.waiting, want_pos]
    simp [hwait, stepRead, hw]
  | false =>
    have hwait : State.busy { s with input := w :: s.input } = false := hb
    simp [hwait, stepRead, hw]

theorem decodeTableWord_word {w : Nat} {i : Instr} (h : decodeTableWord 16 w = some i) :
    decodeWord (BitVec.ofNat 10 w) = .ok i := by
  unfold decodeTableWord at h
  rw [if_pos (by omega)] at h
  split_ifs at h
  cases hw : decodeWord (BitVec.ofNat 10 w) with
  | ok j =>
    simp only [hw] at h
    cases h
    rfl
  | error r => simp [hw] at h

/-! ## A record -/

@[simp] theorem map_byte_entriesFrom (m : Mode) (off : Nat) (bs : List Byte) :
    (entriesFrom m off bs).map Entry.byte = bs := by
  induction bs generalizing off with
  | nil => rfl
  | cons b bs ih => simp [entriesFrom, ih]

@[simp] theorem length_entriesFrom (m : Mode) (off : Nat) (bs : List Byte) :
    (entriesFrom m off bs).length = bs.length := by
  rw [← List.length_map Entry.byte, map_byte_entriesFrom]

/-- A placed record that fills its site's PEEK runs, where the site evaluates it in the context in
which its bytes decode. -/
theorem step_placeRecord {m : Mode} {site : Site} {bs rest : List Byte} {s : State} {i : Instr}
    {ctx : RecordContext} (hlen : want m site ≤ bs.length)
    (hctx : siteContext (placeRecord m site bs s) = some ctx)
    (hdec : decodeRecord ctx bs = some (i, rest)) (hruns : siteRuns site i = true) :
    step (placeRecord m site bs s) = exec i (placeRecord m site bs s) := by
  have hbusy : (placeRecord m site bs s).busy = true := by
    simp [State.busy, State.waiting, placeRecord, hlen]
  have hfetch : fetchRecord (placeRecord m site bs s) = some i := by
    unfold fetchRecord
    rw [hctx]
    simp [placeRecord, hdec, hruns]
  unfold step stepServe
  rw [hbusy, hfetch]
  rfl

/-- A record that the decoder reads is read again where nothing follows it. -/
theorem decodeRecord_of_encode {i : Instr} {ctx ctx' : RecordContext} {bs bs' rest : List Byte}
    (h : decodeRecord ctx bs = some (i, rest)) (he : encode i = .record ctx' bs') :
    decodeRecord ctx' bs' = some (i, []) := by
  simpa using decodeRecord_encode (rest := []) (encode_of_decodeRecord h).1 (.inr rfl) he

theorem step_loadRecord_gcr {bs rest : List Byte} {i : Instr} (s : State) (hlong : 709 ≤ bs.length)
    (h : decodeRecord .gcr bs = some (i, rest)) :
    step (loadRecord .gcr bs s) = exec i (loadRecord .gcr bs s) := by
  obtain ⟨x, ⟨rfl, rfl, rfl⟩ | ⟨rfl, rfl, rfl⟩⟩ := decodeGcrRecord_cases h <;>
    simp only [loadRecord, h, Option.map_some]
  · refine step_placeRecord ?_ rfl (decodeRecord_of_encode h rfl) rfl
    simp [sigGcrAddr] at hlong
    simp [sigGcrAddr, want]
    omega
  · refine step_placeRecord ?_ rfl (decodeRecord_of_encode h rfl) rfl
    simp [sigGcrData] at hlong
    simp [sigGcrData, want]
    omega

theorem step_loadRecord_mfm {bs rest : List Byte} {i : Instr} (s : State) (hlong : 518 ≤ bs.length)
    (h : decodeRecord .mfm bs = some (i, rest)) :
    step (loadRecord .mfm bs s) = exec i (loadRecord .mfm bs s) := by
  obtain ⟨x, ⟨rfl, rfl, rfl⟩ | ⟨rfl, rfl, rfl⟩ | ⟨rfl, rfl, rfl⟩⟩ := decodeMfmRecord_cases h <;>
    simp only [loadRecord, h, Option.map_some]
  · exact step_placeRecord (ctx := .mfm) (rest := []) le_rfl rfl rfl rfl
  · refine step_placeRecord ?_ rfl (decodeRecord_of_encode h rfl) rfl
    simp [sigMfmAddr] at hlong
    simp [sigMfmAddr, want]
    omega
  · refine step_placeRecord ?_ rfl (decodeRecord_of_encode h rfl) rfl
    simp [sigMfmData] at hlong
    simp [sigMfmData, want]
    omega

theorem step_loadRecord_dcd {bs rest : List Byte} {i : Instr} (s : State)
    (h : decodeRecord (.dcd none) bs = some (i, rest)) :
    step (loadRecord (.dcd none) bs s) = exec i (loadRecord (.dcd none) bs s) := by
  obtain ⟨x, rfl⟩ : ∃ x, bs = syncByte :: x :=
    (decodeDcdFrame_cases (seed := none) h).imp fun _ hx => hx.1
  obtain rfl : i = .dcdFrame (x.take (frameBodyLen x)) := by
    have := h.symm.trans (decodeDcdFrame_none x)
    simp_all
  simp only [loadRecord, h, Option.map_some]
  exact step_placeRecord (by simp [want]) rfl (decodeRecord_of_encode h rfl) rfl

@[simp] theorem length_tableBytes (n w : Nat) : (tableBytes n w).length = n := by
  induction n with
  | zero => rfl
  | succ n ih => simp [tableBytes, ih]

theorem length_tableRecord (nbits w : Nat) : (tableRecord nbits w).length = nbits / 8 + 706 := by
  rw [tableRecord, List.length_append, length_tableBytes, List.length_replicate]

theorem decodeTableWord_record {nbits w : Nat} {i : Instr} {ctx : RecordContext}
    (hctx : tableContext nbits = some ctx) (hbits : ¬ (10 ≤ nbits ∧ nbits ≤ 16))
    (h : decodeTableWord nbits w = some i) :
    ∃ rest, decodeRecord ctx (tableRecord nbits w) = some (i, rest) := by
  unfold decodeTableWord at h
  rw [if_neg hbits, hctx] at h
  split_ifs at h
  obtain ⟨⟨j, rest⟩, hdec, rfl⟩ := Option.map_eq_some_iff.mp h
  exact ⟨rest, hdec⟩

theorem withFetchWord_record {nbits : Nat} {ctx : RecordContext}
    (hctx : tableContext nbits = some ctx) (hbits : ¬ (10 ≤ nbits ∧ nbits ≤ 16)) (s : State)
    (w : Nat) :
    s.withFetchWord nbits w = loadRecord ctx (tableRecord nbits w) s := by
  rw [State.withFetchWord, loadTableWord, if_neg hbits, hctx]

end Sys2Proof.Machine

open Sys2Proof Sys2Proof.Machine

/-- Settles O9: a word is read from the input port, and a record fetched from the window. -/
theorem placedRowRunsNext : Obligations.PlacedRowRunsNext := by
  refine ⟨fun s w i h => step_loadWord (decodeTableWord_word h) s, fun s nbits w i hn h => ?_⟩
  obtain ⟨ctx, hctx, hbits⟩ :
      ∃ ctx, tableContext nbits = some ctx ∧ ¬ (10 ≤ nbits ∧ nbits ≤ 16) := by
    rcases hn with rfl | rfl | rfl <;> exact ⟨_, rfl, by omega⟩
  obtain ⟨rest, hdec⟩ := decodeTableWord_record hctx hbits h
  rw [withFetchWord_record hctx hbits]
  rcases hn with rfl | rfl | rfl <;> cases hctx
  · exact step_loadRecord_dcd s hdec
  · exact step_loadRecord_gcr s (by simp [length_tableRecord]) hdec
  · exact step_loadRecord_mfm s (by simp [length_tableRecord]) hdec

end

section
/-! The GCR encoder and decoder: DENIB undoes PACK, CKSUM undoes SCRAMBLE, and a data mark that
GCRDATA builds delivers its payload (30_encoding.md R147; 43_gcr.md R275 to R288). -/

namespace Sys2Proof.Machine

/-! ## The denibblizer -/

/-- An output whose two bits of the hi value are a byte's top bits, and whose own value is the
byte's low bits, is that byte (R277). -/
theorem denibOut_low6 {hi : Nibble} {x : Byte} {k : Nat} (hk1 : 1 ≤ k) (hk3 : k ≤ 3)
    (h : hi.extractLsb' (6 - 2 * k) 2 = top2 x) : denibOut hi (low6 x) k = x := by
  have hbit (j : Nat) (hj : j < 2) : hi.getLsbD (6 - 2 * k + j) = x.getLsbD (6 + j) := by
    simpa [top2, hj] using congrArg (·.getLsbD j) h
  have hbit0 := hbit 0 (by omega)
  have hbit1 := hbit 1 (by omega)
  clear h hbit
  apply BitVec.eq_of_getLsbD_eq
  intro i hi
  interval_cases k <;> interval_cases i <;> simp_all [denibOut, low6]

/-- The hi value of a run holds the top bits of its three bytes, the first byte's highest (R147). -/
theorem extractLsb'_hi (a b c : BitVec 2) :
    (a ++ (b ++ c) : Nibble).extractLsb' 4 2 = a ∧ (a ++ (b ++ c) : Nibble).extractLsb' 2 2 = b ∧
      (a ++ (b ++ c) : Nibble).extractLsb' 0 2 = c := by
  revert a b c
  decide

/-- The last run has no error: the bits of the bytes that it has not are 0 (R147, R278). -/
theorem denibPending_hi (a b : BitVec 2) :
    denibPending (a ++ 0#4) 1 = none ∧ denibPending (a ++ (b ++ 0#2)) 2 = none := by
  revert a b
  decide

/-- DENIB undoes PACK (R147, R277; the source's property 2). -/
theorem denib_pack (y : List Byte) : denib (pack y) = (y, none) := by
  fun_induction pack y with
  | case1 => rfl
  | case2 x =>
    have hx : denibOut (top2 x ++ 0#4) (low6 x) 1 = x :=
      denibOut_low6 (by omega) (by omega) (extractLsb'_hi (top2 x) 0#2 0#2).1
    rw [denib, hx, (denibPending_hi _ 0).1]
  | case3 x y =>
    have hx : denibOut (top2 x ++ (top2 y ++ 0#2)) (low6 x) 1 = x :=
      denibOut_low6 (by omega) (by omega) (extractLsb'_hi (top2 x) (top2 y) 0#2).1
    have hy : denibOut (top2 x ++ (top2 y ++ 0#2)) (low6 y) 2 = y :=
      denibOut_low6 (by omega) (by omega) (extractLsb'_hi (top2 x) (top2 y) 0#2).2.1
    rw [denib, hx, hy, (denibPending_hi _ _).2]
  | case4 x y z rest ih =>
    obtain ⟨h1, h2, h3⟩ := extractLsb'_hi (top2 x) (top2 y) (top2 z)
    have hx := denibOut_low6 (k := 1) (by omega) (by omega) h1
    have hy := denibOut_low6 (k := 2) (by omega) (by omega) h2
    have hz := denibOut_low6 (k := 3) (by omega) (by omega) h3
    rw [denib, ih, hx, hy, hz]

theorem length_pack (y : List Byte) : (pack y).length = y.length + (y.length + 2) / 3 := by
  fun_induction pack y with
  | case1 => simp
  | case2 x => simp
  | case3 x y => simp
  | case4 x y z rest ih => simp [ih]; omega

/-! ## The rotating checksum -/

/-- The checksum engine undoes the scrambling, group by group (R147, R281, R284). -/
theorem cksumFrom_scrambleFrom (m : GcrAdd) : ∀ (acc : Acc) (p : List Byte),
    cksumFrom m acc (scrambleFrom m acc p).1 = (p, (scrambleFrom m acc p).2)
  | _, [] => rfl
  | acc, [x] => by simp [scrambleFrom, cksumFrom]
  | acc, [x, y] => by simp [scrambleFrom, cksumFrom]
  | acc, x :: y :: z :: rest => by
    simp [scrambleFrom, cksumFrom, cksumFrom_scrambleFrom m _ rest]

theorem length_scrambleFrom (m : GcrAdd) (acc : Acc) (p : List Byte) :
    (scrambleFrom m acc p).1.length = p.length := by
  rw [← length_cksumFrom m acc, cksumFrom_scrambleFrom]

/-! ## The symbols -/

theorem lookup_symbolOf {cfg : Config} (h : cfg.nibTable = defaultNibTable) (v : Nibble) :
    lookup cfg (symbolOf v) = some v := by
  rw [lookup, h]
  revert v
  decide

theorem nibbles_map_symbolOf {cfg : Config} (h : cfg.nibTable = defaultNibTable) (vs : List Nibble) :
    nibbles cfg (vs.map symbolOf) = vs := by
  simp [nibbles, List.filterMap_map, lookup_symbolOf h]

theorem invalidSymbols_map_symbolOf {cfg : Config} (h : cfg.nibTable = defaultNibTable)
    (vs : List Nibble) : invalidSymbols cfg (vs.map symbolOf) = [] := by
  simp [invalidSymbols_eq_nil_iff, lookup_symbolOf h]

/-! ## The data mark -/

/-- The values of a data mark's 703 symbols: the scrambled payload, then its checksum (R147). -/
def dataValues (p : List Byte) : List Nibble :=
  pack (scramble .mod256 p).1 ++
    pack [(scramble .mod256 p).2.a, (scramble .mod256 p).2.b, (scramble .mod256 p).2.c]

theorem asmGcrDataBody_eq (sector : Nibble) (p : List Byte) :
    asmGcrDataBody sector p = symbolOf sector :: ((dataValues p).map symbolOf ++ bitSlip) := rfl

theorem length_pack_scramble {p : List Byte} (h : p.length = 524) :
    (pack (scramble .mod256 p).1).length = 699 := by
  rw [length_pack, scramble, length_scrambleFrom, h]

theorem length_dataValues {p : List Byte} (h : p.length = 524) : (dataValues p).length = 703 := by
  simp [dataValues, length_pack_scramble h, pack]

/-- The data mark that GCRDATA builds passes the checks of R286 in their order, where the geometry has
its sector: its symbols are looked up to its values, which denibblize to the scrambled payload and its
checksum (R147, R275, R288). -/
theorem gcrDataEval_delivers {prov : Option Prov} {s : State} {sector : Nibble} {p : List Byte}
    {g : GcrGeom} (htable : s.cfg.nibTable = defaultNibTable) (hadd : s.cfg.gcrAdd = .mod256)
    (hp : p.length = 524) (hg : s.ggeom = some g) (hsec : g.sector = sector) :
    gcrDataEval prov (asmGcrData sector p) s =
      pop lenGcrData (emitRecord .gcrData prov (.gcr g) p s) := by
  have hlen : (asmGcrData sector p).length = 709 := by
    simp [asmGcrData, asmGcrDataBody_eq, length_dataValues hp, sigGcrData, bitSlip]
  have hsym : lookup s.cfg (byteAt (asmGcrData sector p) 3) = some sector :=
    lookup_symbolOf htable sector
  have hsyms : slice (asmGcrData sector p) 4 703 = (dataValues p).map symbolOf := by
    show ((dataValues p).map symbolOf ++ bitSlip).take 703 = _
    rw [List.take_left' (by simp [length_dataValues hp])]
  have hdata : (dataValues p).take 699 = pack (scramble .mod256 p).1 :=
    List.take_left' (length_pack_scramble hp)
  have htarget : (dataValues p).drop 699 =
      pack [(scramble .mod256 p).2.a, (scramble .mod256 p).2.b, (scramble .mod256 p).2.c] :=
    List.drop_left' (length_pack_scramble hp)
  have hcksum : cksum .mod256 (scramble .mod256 p).1 = (p, (scramble .mod256 p).2) :=
    cksumFrom_scrambleFrom _ _ p
  unfold gcrDataEval
  rw [if_neg (by simp [hlen, lenGcrData]), hsym]
  simp only [hsyms, invalidSymbols_map_symbolOf htable, nibbles_map_symbolOf htable, hdata, htarget,
    denib_pack, hadd, hcksum, hg, hsec, gcrGeom, Option.map_some, ne_eq, not_true_eq_false, if_false]

end Sys2Proof.Machine

open Sys2Proof Sys2Proof.Machine

/-- Settles O26, run by run of PACK. -/
theorem denibUndoesPack : Obligations.DenibUndoesPack := denib_pack

/-- Settles O27: both engines start from zero accumulators. -/
theorem cksumUndoesScramble : Obligations.CksumUndoesScramble :=
  fun m p => cksumFrom_scrambleFrom m ⟨0, 0, 0⟩ p

/-- Settles O30: the evaluation delivers the mark, and the sequencer returns to `Search`. -/
theorem gcrDataExpansionIsDelivered : Obligations.GcrDataExpansionIsDelivered := by
  intro s sector p g htable hadd hp hg hsec
  show Host.Outcome.next (toSearch (gcrDataEval s.frontProv (asmGcrData sector p) s)) = _
  rw [gcrDataEval_delivers htable hadd hp hg hsec]
  simp [toSearch, pop, emitRecord, emitEvent, emit, Window.dropped, lenGcrData, hp]

end

section
/-! The DCD carrier and a payload's validity (30_encoding.md R131, R134, R148; 42_dcd.md R220,
R224). -/

namespace Sys2Proof.Machine

/-- Which bit of the carrier fills slot `k` (R131, R220). -/
theorem carrierBit_eq (cfg : Config) (dir : LinkDir) (b : Byte) (k : Nat) : carrierBit cfg dir b k =
    b.getLsbD (if dir = .p2h ∧ cfg.p2hOrder = .msbFirst then 6 - k else k) := by
  unfold carrierBit
  split <;> simp_all

theorem getLsbD_low7 (b : Byte) {k : Nat} (hk : k < 7) : (low7 b).getLsbD k = b.getLsbD k := by
  simp [low7, hk]

theorem carrierBit_carrierOf {cfg : Config} {dir : LinkDir}
    (horder : dir = .h2p ∨ cfg.p2hOrder = .lsbFirst) (cont : Bool) (g : List Byte) {k : Nat}
    (hk : k < 7) :
    carrierBit cfg dir (carrierOf cont g) k = (bitsToNat (g.map BitVec.msb)).testBit k := by
  have hslot : ¬ (dir = .p2h ∧ cfg.p2hOrder = .msbFirst) := by
    rcases horder with h | h <;> simp [h]
  rw [carrierBit_eq, if_neg hslot, ← getLsbD_low7 _ hk, carrierOf, low7_joinBit7,
    BitVec.getLsbD_ofNat]
  simp [hk]

theorem testBit_bitsToNat (bs : List Bool) (k : Nat) : (bitsToNat bs).testBit k = bs.getD k false := by
  induction bs generalizing k with
  | nil => simp [bitsToNat]
  | cons b bs ih =>
    have hhalf : bitsToNat (b :: bs) / 2 = bitsToNat bs := by
      have := b.toNat_lt
      rw [bitsToNat]
      omega
    cases k with
    | zero => cases b <;> simp [bitsToNat]
    | succ k => rw [Nat.testBit_succ, hhalf, ih, List.getD_cons_succ]

/-- The carrier of R148 restores its group. -/
theorem assembleGroup_carrierOf {cfg : Config} {dir : LinkDir}
    (horder : dir = .h2p ∨ cfg.p2hOrder = .lsbFirst) (cont : Bool) {g : List Byte}
    (hg : g.length = 7) : assembleGroup cfg dir (g.map low7) (carrierOf cont g) = g := by
  apply List.ext_getElem (by simp)
  intro k h1 h2
  have hk : k < 7 := by omega
  simp [assembleGroup, carrierBit_carrierOf horder cont g hk, testBit_bitsToNat, h2, joinBit7_low7]

theorem byteSum_toNat (bs : List Byte) : (byteSum bs).toNat = (bs.map BitVec.toNat).sum % 256 := by
  induction bs with
  | nil => rfl
  | cons b bs ih => simp [byteSum, BitVec.toNat_add, ih]

theorem validPayload_cons (dir : LinkDir) (first : Byte) (rest : List Byte) :
    validPayload dir (first :: rest) = true ↔
      byteSum (first :: rest) = 0 ∧ first.msb = dir.polarity := by
  simp [validPayload]

theorem validPayload_byteSum {dir : LinkDir} {p : List Byte} (h : validPayload dir p = true) :
    byteSum p = 0 := by
  cases p with
  | nil => simp [validPayload] at h
  | cons first rest => exact ((validPayload_cons ..).mp h).1

/-- A payload is valid for one direction at most: its first byte has one polarity. -/
theorem validPayload_h2p_of_p2h {p : List Byte} (h : validPayload .p2h p = true) :
    validPayload .h2p p = false := by
  cases p with
  | nil => rfl
  | cons first rest =>
    have := ((validPayload_cons ..).mp h).2
    simp_all [validPayload, LinkDir.polarity]

theorem byteSum_eq_zero_iff (bs : List Byte) :
    byteSum bs = 0 ↔ (bs.map BitVec.toNat).sum % 256 = 0 := by
  rw [← byteSum_toNat, ← BitVec.toNat_inj]
  rfl

end Sys2Proof.Machine

open Sys2Proof Sys2Proof.Machine

/-- Settles O40: the slot's carrier bit, and the bit that R148 put there. -/
theorem dcdCarrierFillsBitSeven : Obligations.DcdCarrierFillsBitSeven := by
  refine ⟨fun cfg dir body b k lo hk => ?_,
    fun cfg dir g cont hg horder => assembleGroup_carrierOf horder cont hg⟩
  rw [← carrierBit_eq]
  simp [assembleGroup, hk]

/-- Settles O41: the last byte is the negated sum of the others. -/
theorem dcdValidityIsSumAndPolarity : Obligations.DcdValidityIsSumAndPolarity := by
  have hvalid (dir : LinkDir) (first : Byte) (rest : List Byte) :
      validPayload dir (first :: rest) = true ↔ byteSum (first :: rest) = 0 ∧
        first.getLsbD 7 = (match dir with
          | .h2p => false
          | .p2h => true) := by
    rw [validPayload_cons]
    cases dir <;> rfl
  refine ⟨fun _ => rfl, fun dir first rest => ?_, fun dir first rest hpol => ?_⟩
  · rw [← byteSum_eq_zero_iff]
    exact hvalid ..
  · have hsum (last : Byte) :
        byteSum (first :: rest ++ [last]) = byteSum (first :: rest) + last := by
      simp [byteSum_append, byteSum, add_assoc]
    refine ⟨-byteSum (first :: rest), (hvalid ..).mpr ⟨?_, hpol⟩, fun last hlast => ?_⟩
    · exact (hsum _).trans (add_neg_cancel _)
    · have hzero := (hsum last).symm.trans ((hvalid ..).mp hlast).1
      exact eq_neg_of_add_eq_zero_right hzero

end

section
/-! Every record delivered is sound and has its RecordAccepted event: each piece of the sequencer's work
appends outputs of which that is so (30_encoding.md R140; 60_exceptions.md R351). -/

namespace Sys2Proof.Machine

/-! ## Outputs -/

/-- What `OutputsInv` says of a trace, said of any list of outputs. -/
structure SoundOutputs (outs : List Output) : Prop where
  sound    : ∀ r ∈ outs.filterMap Output.record?, r.sound
  accepted : (outs.filterMap Output.event?).filterMap Event.accepted? =
    (outs.filterMap Output.record?).map Record.summary

theorem outputsInv_iff (s : State) : OutputsInv s ↔ SoundOutputs s.trace :=
  ⟨fun h => ⟨h.sound, h.accepted⟩, fun h => ⟨h.sound, h.accepted⟩⟩

theorem SoundOutputs.append {os qs : List Output} (ho : SoundOutputs os) (hq : SoundOutputs qs) :
    SoundOutputs (os ++ qs) where
  sound := by
    simp only [List.filterMap_append, List.mem_append]
    exact fun r hr => hr.elim (ho.sound r) (hq.sound r)
  accepted := by simp only [List.filterMap_append, List.map_append, ho.accepted, hq.accepted]

theorem soundOutputs_nil : SoundOutputs [] := ⟨by simp, rfl⟩

theorem soundOutputs_capture (e : CaptureEntry) : SoundOutputs [.capture e] :=
  ⟨by simp [Output.record?], rfl⟩

theorem soundOutputs_events {es : List Event} (h : ∀ e ∈ es, e.accepted? = none) :
    SoundOutputs (es.map .event) := by
  induction es with
  | nil => exact soundOutputs_nil
  | cons e es ih =>
    have he : SoundOutputs [.event e] := by
      refine ⟨by simp [Output.record?], ?_⟩
      simp [Output.event?, Output.record?, h e (by simp)]
    exact he.append (ih fun e' he' => h e' (by simp [he']))

/-- A record and its RecordAccepted event (R351). -/
theorem soundOutputs_record {k : Kind} {p : Option Prov} {g : Geom} {d : List Byte}
    (h : (mkRecord k p g d).sound) :
    SoundOutputs [.record (mkRecord k p g d), .event (.recordAccepted p k d.length g)] :=
  ⟨by simpa [Output.record?] using h, rfl⟩

/-! ## Pieces of work -/

/-- The trace grows from `s` to `t` by sound outputs. -/
def SoundWork (s t : State) : Prop := ∃ outs, t.trace = s.trace ++ outs ∧ SoundOutputs outs

theorem SoundWork.outputsInv {s t : State} (h : SoundWork s t) (hs : OutputsInv s) : OutputsInv t := by
  obtain ⟨outs, htrace, hout⟩ := h
  rw [outputsInv_iff] at hs ⊢
  exact htrace ▸ hs.append hout

theorem SoundWork.refl (s : State) : SoundWork s s := ⟨[], (List.append_nil _).symm, soundOutputs_nil⟩

theorem SoundWork.trans {s t u : State} (h : SoundWork s t) (g : SoundWork t u) : SoundWork s u := by
  obtain ⟨os, ho, hos⟩ := h
  obtain ⟨qs, hq, hqs⟩ := g
  exact ⟨os ++ qs, by rw [hq, ho, List.append_assoc], hos.append hqs⟩

theorem soundWork_emitEvents {es : List Event} (h : ∀ e ∈ es, e.accepted? = none) (s : State) :
    SoundWork s (emitEvents es s) :=
  ⟨_, rfl, soundOutputs_events h⟩

theorem soundWork_emitEvent {e : Event} (h : e.accepted? = none) (s : State) :
    SoundWork s (emitEvent e s) :=
  soundWork_emitEvents (es := [e]) (by simpa using h) s

theorem soundWork_failCandidate {e : Event} (h : e.accepted? = none) (s : State) :
    SoundWork s (failCandidate e s) :=
  soundWork_emitEvent h s

theorem soundWork_emitRecord {k : Kind} {p : Option Prov} {g : Geom} {d : List Byte} (s : State)
    (h : (mkRecord k p g d).sound) : SoundWork s (emitRecord k p g d s) :=
  ⟨_, emitRecord_trace k p g d s, soundOutputs_record h⟩

theorem soundWork_skip (s : State) : SoundWork s (skip s) := by
  obtain ⟨outs, h, ho⟩ := skip_spec s
  refine ⟨outs, by rw [h], ?_⟩
  subst ho
  split
  · exact soundOutputs_nil
  · exact soundOutputs_events (es := [_]) (by simp [Event.accepted?])

/-! ## The evaluations -/

theorem length_denib (v : List Nibble) : (denib v).1.length + (v.length + 3) / 4 = v.length := by
  fun_induction denib v with
  | case1 => simp
  | case2 hi => simp
  | case3 hi a => simp
  | case4 hi a b => simp
  | case5 hi a b c rest out err h ih => simp_all; omega

theorem soundWork_gcrAddrEval (p : Option Prov) (r : List Byte) (s : State) :
    SoundWork s (gcrAddrEval p r s) := by
  unfold gcrAddrEval
  dsimp only
  split_ifs
  · exact soundWork_failCandidate rfl s
  · exact soundWork_failCandidate rfl s
  · exact soundWork_failCandidate rfl s
  · exact soundWork_emitEvent (e := .gcrAddressMark ..) rfl s

theorem gcrDataRecord_sound {p : Option Prov} (hp : p.isSome = true) (m : GcrAdd) (g : GcrGeom)
    {v : List Nibble} (hv : v.length = 703) :
    (mkRecord .gcrData p (.gcr g) (cksum m (denib (v.take 699)).1).1).sound := by
  have hlen := length_denib (v.take 699)
  rw [List.length_take, hv] at hlen
  refine ⟨by simpa [mkRecord] using hp, by simpa [mkRecord] using hp, ?_, g, rfl⟩
  simp only [mkRecord, length_cksum]
  omega

theorem soundWork_gcrDataEval {p : Option Prov} {r : List Byte}
    (hp : lenGcrData ≤ r.length → p.isSome = true) (s : State) :
    SoundWork s (gcrDataEval p r s) := by
  unfold gcrDataEval
  dsimp only
  split
  · exact soundWork_failCandidate rfl s
  rename_i hlen
  split
  · exact soundWork_failCandidate rfl s
  split
  · exact soundWork_failCandidate rfl s
  rename_i hbad
  split
  · exact soundWork_failCandidate rfl s
  split
  · exact soundWork_failCandidate rfl s
  split
  · exact soundWork_failCandidate rfl s
  rename_i hsec
  cases hg : s.ggeom with
  | none => simp [hg] at hsec
  | some g =>
    have hv : (nibbles s.cfg (slice r 4 703)).length = 703 := by
      rw [length_nibbles _ _ (not_not.mp hbad), length_slice]
      simp [lenGcrData] at hlen
      omega
    exact soundWork_emitRecord s (gcrDataRecord_sound (hp (not_lt.mp hlen)) _ g hv)

theorem soundWork_mfmAddrEval (p : Option Prov) (r : List Byte) (s : State) :
    SoundWork s (mfmAddrEval p r s) := by
  unfold mfmAddrEval
  split_ifs
  · exact soundWork_failCandidate rfl s
  · exact soundWork_failCandidate rfl s
  · exact soundWork_emitEvent (e := .mfmAddressMark ..) rfl s

theorem soundWork_mfmDataEval {p : Option Prov} {r : List Byte}
    (hp : lenMfmData ≤ r.length → p.isSome = true) (s : State) :
    SoundWork s (mfmDataEval p r s) := by
  unfold mfmDataEval
  split_ifs with hlen
  · exact soundWork_failCandidate rfl s
  · exact soundWork_failCandidate rfl s
  · have hsome := hp (not_lt.mp hlen)
    refine soundWork_emitRecord s
      ⟨by simpa [mkRecord] using hsome, by simpa [mkRecord] using hsome, ?_, ?_⟩
    · simp [lenMfmData] at hlen
      simp [mkRecord]
      omega
    · cases s.mgeom <;> simp [mkRecord, mfmGeom]

/-! ## The link -/

theorem complete_evs_accepted {dir : LinkDir} {d : DcdDecoder} :
    ∀ e ∈ (complete dir d).evs, e.accepted? = none := by
  rcases complete_cases dir d with ⟨-, h⟩ | ⟨-, h⟩ <;> simp [h, Event.accepted?]

/-- A decoder's events are its synchronizations and failures (R211). -/
theorem feedPhase_evs_accepted (cfg : Config) (dir : LinkDir) (d : DcdDecoder) (b : Byte)
    (prov : Option Prov) : ∀ e ∈ (feedPhase cfg dir d b prov).evs, e.accepted? = none := by
  unfold feedPhase
  split
  · unfold feedSeek
    split_ifs
    · simp
    · split <;> simp [Event.accepted?]
  · simp [feedHdr0]
  · unfold feedHdr1 startPayload
    split_ifs
    · exact complete_evs_accepted
    · simp
  · simp [feedBody]
  · unfold feedCarrier
    dsimp only
    split_ifs
    · exact complete_evs_accepted
    · simp
    · simp
  · unfold feedHoldoff
    split_ifs <;> simp [Event.accepted?]
  · simp

theorem dcdFeed_evs_accepted (cfg : Config) (dir : LinkDir) (d : DcdDecoder) (b : Byte)
    (prov : Option Prov) : ∀ e ∈ (dcdFeed cfg dir d b prov).evs, e.accepted? = none := by
  intro e he
  rcases List.mem_append.mp he with hfresh | hphase
  · split at hfresh
    · obtain rfl := List.mem_singleton.mp hfresh
      rfl
    · simp at hfresh
  · exact feedPhase_evs_accepted _ _ _ _ _ e hphase

/-- The kind of a direction's record (R140). -/
def LinkDir.kind : LinkDir → Kind
  | .h2p => .dcdH2P
  | .p2h => .dcdP2H

/-- A frame that a legal decoder delivers is a sound record (R134, R140, R223). -/
theorem dcdRecord_sound {cfg : Config} {dir : LinkDir} {d : DcdDecoder} {b : Byte}
    {prov sp : Option Prov} {pl : List Byte} {ig : Option Bits7} (h : DcdInv d)
    (hv : (dcdFeed cfg dir d b prov).res = .valid pl ig sp) :
    (mkRecord dir.kind sp .none pl).sound := by
  obtain ⟨hvalid, rfl, ⟨hphase, -, hlen, -⟩ | ⟨hphase, -, rfl, -⟩⟩ := dcdFeed_valid hv
  · have hsync := h.sync (by simp [hphase])
    have hout := d.outGroups.isLt
    cases dir
    all_goals
      refine ⟨by simpa [mkRecord] using hsync, by simpa [mkRecord] using hsync, ?_⟩
      exact ⟨by simp [mkRecord, hlen], by simp [mkRecord, hlen]; omega, hvalid, rfl, rfl⟩
  · rw [h.empty (by simp [hphase, Phase.beforeGroups])] at hvalid
    simp [validPayload] at hvalid

theorem soundWork_arbitrate {h p : FeedOut} (prov : Option Prov) (s : State)
    (hh : ∀ pl ig sp, h.res = .valid pl ig sp → (mkRecord .dcdH2P sp .none pl).sound)
    (hp : ∀ pl ig sp, p.res = .valid pl ig sp → (mkRecord .dcdP2H sp .none pl).sound) :
    SoundWork s (arbitrate h p prov s) := by
  unfold arbitrate
  split
  · rename_i hres
    exact soundWork_emitRecord s (hh _ _ _ hres)
  · rename_i hres _
    exact soundWork_emitRecord s (hp _ _ _ hres)
  · split_ifs
    · exact soundWork_emitEvent (e := .desync prov) rfl s
    · exact .refl s

theorem soundWork_linkFeed (b : Byte) (prov : Option Prov) {s : State} (h : LinkInv s) :
    SoundWork s (linkFeed b prov s) := by
  have hevents : SoundWork s (feedBoth (dcdFeed s.cfg .h2p s.h2p b prov)
      (dcdFeed s.cfg .p2h s.p2h b prov) s) := by
    refine soundWork_emitEvents (fun e he => ?_) _
    rcases List.mem_append.mp he with he | he <;> exact dcdFeed_evs_accepted _ _ _ _ _ e he
  exact hevents.trans (soundWork_arbitrate prov _ (fun _ _ _ => dcdRecord_sound h.1)
    (fun _ _ _ => dcdRecord_sound h.2))

/-! ## The sequencer -/

theorem peekResult_isSome {s : State} {n k : Nat} (hk : 0 < k) (h : k ≤ (peekResult s n).2.length) :
    (peekResult s n).1.isSome = true := by
  rw [peekResult_snd, List.length_map, List.length_take] at h
  cases hbuf : s.win.buf with
  | nil => simp [hbuf] at h; omega
  | cons e es => simp [hbuf]

theorem soundWork_actGcrSearch (r : List Byte) (s : State) : SoundWork s (actGcrSearch r s) := by
  unfold actGcrSearch
  split_ifs
  · exact .refl s
  · exact .refl s
  · exact soundWork_skip s

theorem soundWork_actMfmSearch (p : Option Prov) (r : List Byte) (s : State) :
    SoundWork s (actMfmSearch p r s) := by
  unfold actMfmSearch
  split_ifs
  · exact soundWork_emitEvent (e := .mfmIndexMark p) rfl s
  · exact .refl s
  · exact .refl s
  · exact soundWork_skip s

theorem soundWork_actDcd (r : List Byte) {s : State} (h : LinkInv s) : SoundWork s (actDcd r s) := by
  unfold actDcd
  split
  · exact .refl s
  · exact soundWork_linkFeed _ _ h

/-- One `act` emits sound outputs: a record site's record is long enough to have a first byte. -/
theorem soundWork_act {s : State} (h : LinkInv s) : SoundWork s (act s) := by
  unfold act
  dsimp only
  split
  · split
    · exact soundWork_actGcrSearch _ s
    · exact soundWork_actMfmSearch _ _ s
    · exact soundWork_actDcd _ h
  · exact soundWork_gcrAddrEval _ _ s
  · exact soundWork_gcrDataEval (peekResult_isSome (by decide)) s
  · exact soundWork_mfmAddrEval _ _ s
  · exact soundWork_mfmDataEval (peekResult_isSome (by decide)) s
  · exact soundWork_actDcd _ h

theorem soundWork_resume {s : State} (h : LinkInv s) : SoundWork s (resume s) :=
  (resume_induct (P := fun t => LinkInv t ∧ SoundWork s t)
    (fun t ht => ⟨(acted_act t).linkInv ht.1, ht.2.trans (soundWork_act ht.1)⟩) s ⟨h, .refl s⟩).2

/-! ## The input words -/

theorem soundWork_opByte (b : Byte) {s : State} (h : LinkInv s) : SoundWork s (opByte b s) := by
  have hread : SoundWork s (readByte b s) := ⟨_, readByte_trace b s, soundOutputs_capture _⟩
  have hlink : LinkInv (readByte b s) := h
  unfold opByte
  dsimp only
  split_ifs
  · exact hread.trans (soundWork_resume hlink)
  · exact hread

theorem soundWork_opIdle {s : State} (h : LinkInv s) : SoundWork s (opIdle s) := by
  have hidle : SoundWork s (framerIdle s) := framerIdle_eq s ▸ .refl s
  have hlink : LinkInv (framerIdle s) := framerIdle_eq s ▸ h
  exact hidle.trans (soundWork_resume (s := { framerIdle s with win := ⟨_, true⟩ }) hlink)

theorem soundWork_whenRunning {f : State → State} {s : State} (h : SoundWork s (f s)) :
    SoundWork s (whenRunning f s) := by
  rcases whenRunning_cases f s with ⟨-, heq⟩ | ⟨-, q, heq⟩
  · exact heq ▸ h
  · exact heq ▸ .refl s

theorem soundWork_exec_word {w : InputWord} {i : Instr} {s t : State} (hw : decodeWord w = .ok i)
    (h : LinkInv s) (he : exec i s = .next t) : SoundWork s t := by
  rcases decodeWord_cases hw with rfl | ⟨b, rfl⟩ | ⟨m, rfl⟩ | rfl <;> cases he
  · exact soundWork_whenRunning (soundWork_opIdle h)
  · exact soundWork_whenRunning (soundWork_opByte b h)
  · exact .refl s
  · exact soundWork_whenRunning (.refl s)

end Sys2Proof.Machine

open Sys2Proof Sys2Proof.Machine

/-- Settles O56: a read is pending, so a step runs a word, whose work emits sound outputs. -/
theorem outputsInvIsKept : Obligations.OutputsInvIsKept := by
  intro s t hseq hlink hout hstep
  have hread : ∀ ws, LinkInv { s with input := ws } := fun _ => hlink
  have hwork : SoundWork s t := by
    rcases step_cases hstep with ⟨hbusy, -⟩ | ⟨-, ⟨-, rfl⟩ | ⟨w, ws, -, ⟨i, hw, he⟩ | ⟨r, -, rfl⟩⟩⟩
    · simp [hseq.not_busy] at hbusy
    · exact .refl _
    · exact soundWork_exec_word (s := { s with input := ws }) hw (hread ws) he
    · obtain ⟨q, hq⟩ := refuseReserved_eq r { s with input := ws }
      exact hq ▸ .refl s
  exact hwork.outputsInv hout

end

section
/-! One decoder fed the bytes that R148 builds (30_encoding.md R130 to R133, R148; 42_dcd.md R212 to
R223): it is hopeful up to the last byte, on which the frame completes. -/

namespace Sys2Proof.Machine

/-! ## The feeds of a group -/

section
variable {cfg : Config} {dir : LinkDir} {d : DcdDecoder} (hfresh : d.fresh = false)
include hfresh

/-- After the first byte a feed is its phase's part (R212, R213). -/
theorem dcdFeed_of_not_fresh (b : Byte) (prov : Option Prov) :
    dcdFeed cfg dir d b prov = feedPhase cfg dir d b prov := by
  have hd : { d with fresh := false } = d := by rw [← hfresh]
  simp [dcdFeed, hfresh, hd]

theorem dcdFeed_readingPayload (hphase : d.phase = .readingPayload) (b : Byte) (prov : Option Prov) :
    dcdFeed cfg dir d b prov =
      ⟨{ d with
          body := d.body ++ [low7 b]
          phase := if d.body.length + 1 = 7 then .awaitingCarrier else .readingPayload },
        .hopeful, []⟩ := by
  rw [dcdFeed_of_not_fresh hfresh, feedPhase, hphase]
  simp [feedBody, hphase]

theorem dcdFeed_carrier (hphase : d.phase = .awaitingCarrier)
    (hmore : d.payload.length + d.body.length ≠ 7 * d.outGroups.toNat) (b : Byte) (prov : Option Prov) :
    dcdFeed cfg dir d b prov =
      ⟨{ d with
          payload := d.payload ++ assembleGroup cfg dir d.body b
          body := []
          phase := if b.msb then .readingPayload else .holdoff }, .hopeful, []⟩ := by
  rw [dcdFeed_of_not_fresh hfresh, feedPhase, hphase]
  simp [feedCarrier, hmore]

theorem dcdFeed_lastCarrier (hphase : d.phase = .awaitingCarrier)
    (hlast : d.payload.length + d.body.length = 7 * d.outGroups.toNat) (b : Byte) (prov : Option Prov) :
    dcdFeed cfg dir d b prov =
      complete dir { d with payload := d.payload ++ assembleGroup cfg dir d.body b, body := [] } := by
  rw [dcdFeed_of_not_fresh hfresh, feedPhase, hphase]
  simp [feedCarrier, hlast, hphase]

theorem dcdFeed_resume (hphase : d.phase = .holdoff) (prov : Option Prov) :
    dcdFeed cfg dir d syncByte prov =
      ⟨{ d with phase := .readingPayload }, .hopeful, [.dcdSync dir .resumed prov]⟩ := by
  rw [dcdFeed_of_not_fresh hfresh, feedPhase, hphase]
  simp [feedHoldoff]

theorem dcdFeed_noResume (hphase : d.phase = .holdoff) {b : Byte} (hb : b ≠ syncByte)
    (prov : Option Prov) : dcdFeed cfg dir d b prov =
      ⟨{ d with phase := .gaveUp }, .gaveUp, [.dcdGaveUp dir .holdoffNoSync prov]⟩ := by
  rw [dcdFeed_of_not_fresh hfresh, feedPhase, hphase]
  simp [feedHoldoff, hb]

end

/-! ## Runs of hopeful feeds -/

/-- Fed these bytes, each with the provenance of the window entry at the front, the decoder is hopeful at
each of them and ends as `d'` (R160, R211). -/
inductive HopefulRun (cfg : Config) (dir : LinkDir) :
    List Entry → DcdDecoder → List Byte → DcdDecoder → Prop where
  | nil (es : List Entry) (d : DcdDecoder) : HopefulRun cfg dir es d [] d
  | cons {es : List Entry} {d d1 d' : DcdDecoder} {b : Byte} {bs : List Byte}
      (hres : (dcdFeed cfg dir d b (es.head?.map Entry.prov)).res = .hopeful)
      (hdec : (dcdFeed cfg dir d b (es.head?.map Entry.prov)).dec = d1)
      (hrest : HopefulRun cfg dir (es.drop 1) d1 bs d') : HopefulRun cfg dir es d (b :: bs) d'

/-- A feed's provenance has no part in whether a frame is completed. -/
theorem yieldsFrame_cons_prov (cfg : Config) (dir : LinkDir) (d : DcdDecoder) (b : Byte)
    (bs : List Byte) (prov : Option Prov) : yieldsFrame cfg dir d (b :: bs) =
      ((dcdFeed cfg dir d b prov).res.isValid ||
        yieldsFrame cfg dir (dcdFeed cfg dir d b prov).dec bs) := by
  obtain ⟨p, hdec, hres⟩ := dcdFeed_syncProv cfg dir d b d.syncProv none prov
  rw [yieldsFrame_cons, hdec, hres, yieldsFrame_syncProv]

section
variable {cfg : Config} {dir : LinkDir} {es : List Entry} {d d1 d2 : DcdDecoder} {xs ys : List Byte}

theorem HopefulRun.append (h : HopefulRun cfg dir es d xs d1)
    (g : HopefulRun cfg dir (es.drop xs.length) d1 ys d2) : HopefulRun cfg dir es d (xs ++ ys) d2 := by
  induction h with
  | nil => exact g
  | cons hres hdec _ ih =>
    refine .cons hres hdec (ih ?_)
    rwa [List.drop_drop, Nat.add_comm]

theorem HopefulRun.single {b : Byte} {out : FeedOut}
    (h : dcdFeed cfg dir d b (es.head?.map Entry.prov) = out) (hres : out.res = .hopeful) :
    HopefulRun cfg dir es d [b] out.dec :=
  .cons (h ▸ hres) (h ▸ rfl) (.nil ..)

/-- A hopeful run completes no frame. -/
theorem HopefulRun.yieldsFrame_append (h : HopefulRun cfg dir es d xs d1) (ys : List Byte) :
    yieldsFrame cfg dir d (xs ++ ys) = yieldsFrame cfg dir d1 ys := by
  induction h with
  | nil => rfl
  | cons hres hdec _ ih =>
    rw [List.cons_append, yieldsFrame_cons_prov, hres, hdec, ih]
    rfl

end

/-! ## The sync byte and the header -/

/-- A decoder that waits for a sync byte, fed or not since its reset (R214). -/
def seeking (seed : Option Bits7) (fresh : Bool) : DcdDecoder := { dcdReset seed with fresh := fresh }

/-- A decoder at the start of a frame's groups (R216, R218). -/
def groupsStart (seed : Option Bits7) (out : Bits7) (ins : Option Bits7) (sync : Option Prov) :
    DcdDecoder where
  phase := .readingPayload
  fresh := false
  seed := seed
  outGroups := out
  inGroups := ins
  payload := []
  body := []
  syncProv := sync

section
variable (cfg : Config) (dir : LinkDir) (es : List Entry)

/-- The sync byte brings a seeded decoder to its groups (R216). -/
theorem hopefulRun_seeded {n : Bits7} (hn : n ≠ 0) (fresh : Bool) :
    HopefulRun cfg dir es (seeking (some n) fresh) [syncByte]
      (groupsStart (some n) n none (es.head?.map Entry.prov)) := by
  have hseed : seeking (some n) fresh =
      { DcdDecoder.unseeded with seed := some n, fresh := fresh } := by
    have hn' : ¬ some n = some 0 := by simpa using hn
    rw [seeking, dcdReset, if_neg hn']
  rw [hseed]
  exact .cons rfl rfl (.nil ..)

/-- A header that announces groups (R218). -/
theorem dcdFeed_header1 {d : DcdDecoder} (hfresh : d.fresh = false)
    (hphase : d.phase = .readingHeader1) (hout : d.outGroups ≠ 0) (b : Byte) (prov : Option Prov) :
    dcdFeed cfg dir d b prov =
      ⟨{ d with inGroups := some (low7 b), phase := .readingPayload }, .hopeful, []⟩ := by
  rw [dcdFeed_of_not_fresh hfresh, feedPhase, hphase]
  exact if_neg hout

/-- The sync byte and a header that announces groups bring an unseeded decoder to them (R215, R217,
R218). -/
theorem hopefulRun_header {h0 : Byte} (hn : low7 h0 ≠ 0) (h1 : Byte) (fresh : Bool) :
    HopefulRun cfg dir es (seeking none fresh) [syncByte, h0, h1]
      (groupsStart none (low7 h0) (some (low7 h1)) (es.head?.map Entry.prov)) :=
  .cons rfl rfl (.cons rfl rfl (.single (dcdFeed_header1 cfg dir rfl rfl hn h1 _) rfl))

/-- A header that announces no group ends in a decoder that has given up (R218, R223). -/
theorem dcdFeed_noGroups {d : DcdDecoder} (hfresh : d.fresh = false)
    (hphase : d.phase = .readingHeader1) (hout : d.outGroups = 0) (hpayload : d.payload = [])
    (b : Byte) (prov : Option Prov) :
    (dcdFeed cfg dir d b prov).res = .invalid ∧ (dcdFeed cfg dir d b prov).dec.phase = .gaveUp := by
  rw [dcdFeed_of_not_fresh hfresh, feedPhase, hphase]
  simp [feedHdr1, startPayload, hout, complete, hpayload, validPayload]

theorem yieldsFrame_noGroups {h0 : Byte} (hn : low7 h0 = 0) (h1 : Byte) (fresh : Bool)
    (bs : List Byte) : yieldsFrame cfg dir (seeking none fresh) (syncByte :: h0 :: h1 :: bs) = false := by
  obtain ⟨d, hread, hfresh, hphase, hout, hpayload⟩ :
      ∃ d, HopefulRun cfg dir [] (seeking none fresh) [syncByte, h0] d ∧ d.fresh = false ∧
        d.phase = .readingHeader1 ∧ d.outGroups = low7 h0 ∧ d.payload = [] :=
    ⟨_, .cons rfl rfl (.cons rfl rfl (.nil ..)), rfl, rfl, rfl, rfl⟩
  obtain ⟨hres, hgave⟩ := dcdFeed_noGroups cfg dir hfresh hphase (hout.trans hn) hpayload h1 none
  refine (hread.yieldsFrame_append (h1 :: bs)).trans ?_
  rw [yieldsFrame_cons, hres, yieldsFrame_gaveUp _ _ _ hgave]
  rfl

end

/-! ## The groups -/

/-- The decoder is in a frame's groups, with no group begun. -/
structure AtGroupStart (d : DcdDecoder) : Prop where
  fresh : d.fresh = false
  phase : d.phase = .readingPayload
  body  : d.body = []

theorem AtGroupStart.eq {d : DcdDecoder} (h : AtGroupStart d) (p : List Byte) :
    { d with payload := p } = { d with phase := .readingPayload, payload := p, body := [] } := by
  rw [← h.phase, ← h.body]

/-- The payload bytes that a group's bytes are assembled to (R131, R220). -/
def assembled (cfg : Config) (dir : LinkDir) (cont : Bool) (g : List Byte) : List Byte :=
  assembleGroup cfg dir (g.map low7) (carrierOf cont g)

/-- The 7 body bytes of a group on the wire (R148). -/
def bodyBytes (g : List Byte) : List Byte := g.map fun p => joinBit7 true (low7 p)

theorem asmGroups_last (g : List Byte) (conts : List Bool) :
    asmGroups [g] conts = bodyBytes g ++ [carrierOf (conts.headD true) g] := by
  simp [asmGroups, bodyBytes]

theorem asmGroups_cons (g : List Byte) {gs : List (List Byte)} (hgs : gs ≠ []) (conts : List Bool) :
    asmGroups (g :: gs) conts = bodyBytes g ++ carrierOf (conts.headD true) g ::
      (if conts.headD true = false then [syncByte] else []) ++ asmGroups gs conts.tail := by
  simp [asmGroups, bodyBytes, hgs]

section
variable {cfg : Config} {dir : LinkDir} {d : DcdDecoder}

/-- Body bytes that fill a group. -/
theorem hopefulRun_fill (hfresh : d.fresh = false) (hphase : d.phase = .readingPayload)
    (es : List Entry) {g : List Byte} (hne : g ≠ []) (hlen : d.body.length + g.length = 7) :
    HopefulRun cfg dir es d (bodyBytes g)
      { d with body := d.body ++ g.map low7, phase := .awaitingCarrier } := by
  induction g generalizing d es with
  | nil => exact absurd rfl hne
  | cons p g ih =>
    have hfeed := dcdFeed_readingPayload (cfg := cfg) (dir := dir) hfresh hphase
      (joinBit7 true (low7 p)) (es.head?.map Entry.prov)
    rw [low7_joinBit7] at hfeed
    refine .cons (congrArg FeedOut.res hfeed) (congrArg FeedOut.dec hfeed) ?_
    cases g with
    | nil =>
      have h7 : d.body.length + 1 = 7 := by simpa using hlen
      simp only [if_pos h7]
      exact .nil ..
    | cons q g =>
      have h7 : d.body.length + 1 ≠ 7 := by simp at hlen; omega
      simpa [h7, bodyBytes] using
        ih (d := { d with body := d.body ++ [low7 p], phase := .readingPayload }) hfresh rfl
          (es.drop 1) (by simp) (by simp at hlen ⊢; omega)

variable (hd : AtGroupStart d) {g : List Byte} (hg : g.length = 7)
include hd hg

theorem hopefulRun_body (es : List Entry) : HopefulRun cfg dir es d (bodyBytes g)
    { d with body := g.map low7, phase := .awaitingCarrier } := by
  simpa [hd.body] using hopefulRun_fill hd.fresh hd.phase es (g := g)
    (List.length_pos_iff.mp (by omega)) (by simp [hd.body, hg])

/-- A group that is not the frame's last: its body bytes, its carrier, and after a clear flag the resuming
sync byte (R131, R132). -/
theorem hopefulRun_group (hmore : d.payload.length + 7 ≠ 7 * d.outGroups.toNat) (cont : Bool)
    (es : List Entry) :
    HopefulRun cfg dir es d
      (bodyBytes g ++ carrierOf cont g :: (if cont = false then [syncByte] else []))
      { d with payload := d.payload ++ assembled cfg dir cont g } := by
  refine (hopefulRun_body hd hg es).append ?_
  have hcarrier := dcdFeed_carrier (cfg := cfg) (dir := dir)
    (d := { d with body := g.map low7, phase := .awaitingCarrier }) hd.fresh rfl
    (by simpa [hg] using hmore) (carrierOf cont g) ((es.drop (bodyBytes g).length).head?.map Entry.prov)
  refine .cons (congrArg FeedOut.res hcarrier) (congrArg FeedOut.dec hcarrier) ?_
  rw [hd.eq, carrierOf, msb_joinBit7]
  cases cont with
  | true => exact .nil ..
  | false => exact .single (dcdFeed_resume (by exact hd.fresh) rfl _) rfl

end

/-! ## A whole frame -/

/-- The result of a frame that completes with this payload (R223). -/
def frameResult (dir : LinkDir) (pl : List Byte) (ig : Option Bits7) (sp : Option Prov) : FeedResult :=
  if validPayload dir pl then .valid pl ig sp else .invalid

theorem complete_res (dir : LinkDir) (d : DcdDecoder) :
    (complete dir d).res = frameResult dir d.payload d.inGroups d.syncProv := by
  unfold complete frameResult
  split_ifs <;> rfl

/-- Fed these bytes the decoder is hopeful up to the last, which has this result. -/
def FrameRun (cfg : Config) (dir : LinkDir) (es : List Entry) (d : DcdDecoder) (init : List Byte)
    (last : Byte) (res : FeedResult) : Prop :=
  ∃ d1, HopefulRun cfg dir es d init d1 ∧ ∀ prov, (dcdFeed cfg dir d1 last prov).res = res

section
variable {cfg : Config} {dir : LinkDir} {es : List Entry} {d d1 : DcdDecoder} {xs ys : List Byte}
  {last : Byte} {res : FeedResult}

theorem HopefulRun.frameRun (h : HopefulRun cfg dir es d xs d1)
    (g : FrameRun cfg dir (es.drop xs.length) d1 ys last res) :
    FrameRun cfg dir es d (xs ++ ys) last res := by
  obtain ⟨d2, hrun, hlast⟩ := g
  exact ⟨d2, h.append hrun, hlast⟩

/-- The frame is yielded at its last byte, if it is valid. -/
theorem FrameRun.yieldsFrame (h : FrameRun cfg dir es d xs last res) :
    yieldsFrame cfg dir d xs = false ∧ yieldsFrame cfg dir d (xs ++ [last]) = res.isValid := by
  obtain ⟨d1, hrun, hlast⟩ := h
  have hinit := hrun.yieldsFrame_append []
  rw [List.append_nil] at hinit
  refine ⟨hinit, ?_⟩
  rw [hrun.yieldsFrame_append, yieldsFrame_cons, hlast, yieldsFrame_nil, Bool.or_false]

/-- The frame's last group. -/
theorem frameRun_lastGroup (hd : AtGroupStart d) {g : List Byte} (hg : g.length = 7)
    (hlast : d.payload.length + 7 = 7 * d.outGroups.toNat) (cont : Bool) (es : List Entry) :
    FrameRun cfg dir es d (bodyBytes g) (carrierOf cont g)
      (frameResult dir (d.payload ++ assembled cfg dir cont g) d.inGroups d.syncProv) := by
  refine ⟨_, hopefulRun_body hd hg es, fun prov => ?_⟩
  have hcarrier := dcdFeed_lastCarrier (cfg := cfg) (dir := dir)
    (d := { d with body := g.map low7, phase := .awaitingCarrier }) hd.fresh rfl
    (by simpa [hg] using hlast) (carrierOf cont g) prov
  rw [hcarrier, complete_res]
  rfl

end

/-- The frame's groups are read, and its payload is the groups' own where the carrier is assembled as it
was built (R131, R148, R220). -/
theorem frameRun_groups {gs : List (List Byte)} (hgs : ∀ g ∈ gs, g.length = 7) (hne : gs ≠ [])
    (conts : List Bool) : ∃ init last, asmGroups gs conts = init ++ [last] ∧
      ∀ (cfg : Config) (dir : LinkDir) (es : List Entry) (d : DcdDecoder), AtGroupStart d →
        d.payload.length + 7 * gs.length = 7 * d.outGroups.toNat →
        ∃ pl, ((dir = .h2p ∨ cfg.p2hOrder = .lsbFirst) → pl = gs.flatten) ∧
          FrameRun cfg dir es d init last
            (frameResult dir (d.payload ++ pl) d.inGroups d.syncProv) := by
  induction gs generalizing conts with
  | nil => exact absurd rfl hne
  | cons g gs ih =>
    obtain ⟨hg, hgs⟩ := List.forall_mem_cons.mp hgs
    by_cases hlast : gs = []
    · subst hlast
      refine ⟨_, _, asmGroups_last g conts, fun cfg dir es d hd hlen => ?_⟩
      refine ⟨_, fun horder => ?_, frameRun_lastGroup hd hg (by simpa using hlen) _ es⟩
      rw [assembled, assembleGroup_carrierOf horder _ hg, List.flatten_cons, List.flatten_nil,
        List.append_nil]
    · obtain ⟨init, last, hsplit, hrun⟩ := ih hgs hlast conts.tail
      refine ⟨_, last, by rw [asmGroups_cons g hlast, hsplit, ← List.append_assoc],
        fun cfg dir es d hd hlen => ?_⟩
      rw [List.length_cons] at hlen
      have hpos := List.length_pos_iff.mpr hlast
      have hgroup := hopefulRun_group (cfg := cfg) (dir := dir) hd hg (by omega) (conts.headD true) es
      obtain ⟨pl, hpl, hframe⟩ := hrun cfg dir (es.drop _)
        { d with payload := d.payload ++ assembled cfg dir (conts.headD true) g }
        ⟨hd.fresh, hd.phase, hd.body⟩ (by simp [assembled, hg]; omega)
      refine ⟨assembled cfg dir (conts.headD true) g ++ pl, fun horder => ?_, ?_⟩
      · rw [assembled, assembleGroup_carrierOf horder _ hg, hpl horder, List.flatten_cons]
      · rw [← List.append_assoc]
        exact hgroup.frameRun hframe

end Sys2Proof.Machine
end

section
/-! A decoder that is not given enough bytes for the groups of its frame completes none, and an unseeded
decoder's parse of a reply (30_encoding.md R130 to R133; 42_dcd.md R237). -/

namespace Sys2Proof.Machine

/-- The decoder is in its frame's groups, and `n` bytes are too few for those left: 8 for each group,
less those of the group begun. -/
structure LacksBytes (d : DcdDecoder) (n : Nat) : Prop where
  fresh : d.fresh = false
  phase : (d.phase = .readingPayload ∧ d.body.length < 7) ∨
    (d.phase = .awaitingCarrier ∧ d.body.length = 7) ∨ (d.phase = .holdoff ∧ d.body = [])
  few   : 8 * d.payload.length + 7 * d.body.length + 7 * n < 56 * d.outGroups.toNat

theorem LacksBytes.yieldsFrame {cfg : Config} {dir : LinkDir} {d : DcdDecoder} {bs : List Byte}
    (h : LacksBytes d bs.length) : yieldsFrame cfg dir d bs = false := by
  induction bs generalizing d with
  | nil => rfl
  | cons b bs ih =>
    have hfew := h.few
    rw [List.length_cons] at hfew
    rw [yieldsFrame_cons]
    rcases h.phase with ⟨hphase, hbody⟩ | ⟨hphase, hbody⟩ | ⟨hphase, hbody⟩
    · rw [dcdFeed_readingPayload h.fresh hphase]
      refine ih ⟨h.fresh, ?_, ?_⟩
      · by_cases h7 : d.body.length + 1 = 7
        · exact .inr (.inl (by simp [h7]))
        · exact .inl (by simp [h7]; omega)
      · simp
        omega
    · rw [dcdFeed_carrier h.fresh hphase (by omega)]
      refine ih ⟨h.fresh, ?_, ?_⟩
      · cases b.msb
        · exact .inr (.inr ⟨rfl, rfl⟩)
        · exact .inl ⟨rfl, by simp⟩
      · simp
        omega
    · by_cases hb : b = syncByte
      · rw [hb, dcdFeed_resume h.fresh hphase]
        exact ih ⟨h.fresh, .inl ⟨rfl, by simp [hbody]⟩, by simp [hbody] at hfew ⊢; omega⟩
      · rw [dcdFeed_noResume h.fresh hphase hb, yieldsFrame_gaveUp _ _ _ rfl]
        rfl

/-- An unseeded decoder that waits for a sync byte reads the first byte's low 7 bits as the number of
groups, and yields no frame where that is 0 or more than the bytes hold (R215, R217, R218). -/
theorem yieldsFrame_seeking_none (cfg : Config) (dir : LinkDir) (fresh : Bool) {bs : List Byte}
    (h : low7 (byteAt bs 0) = 0 ∨ bs.length < 2 + 8 * (low7 (byteAt bs 0)).toNat) :
    yieldsFrame cfg dir (seeking none fresh) (syncByte :: bs) = false := by
  match bs with
  | [] => rfl
  | [_] => rfl
  | h0 :: h1 :: bs =>
    by_cases h0z : low7 h0 = 0
    · exact yieldsFrame_noGroups cfg dir h0z h1 fresh bs
    · have hfew : bs.length < 8 * (low7 h0).toNat := by
        have := h.resolve_left h0z
        simp [byteAt] at this
        omega
      refine ((hopefulRun_header cfg dir [] h0z h1 fresh).yieldsFrame_append bs).trans ?_
      exact LacksBytes.yieldsFrame ⟨rfl, .inl ⟨rfl, by simp [groupsStart]⟩, by
        simp [groupsStart]; omega⟩

end Sys2Proof.Machine
end

section
/-! The link fed byte by byte (42_dcd.md R230 to R233): while one decoder is hopeful and the other
yields no frame nothing is delivered, and a valid frame of either is delivered. -/

namespace Sys2Proof.Machine

/-- The other direction of the link (R210). -/
def LinkDir.other : LinkDir → LinkDir
  | .h2p => .p2h
  | .p2h => .h2p

/-- A direction's decoder. -/
def State.decoder (s : State) : LinkDir → DcdDecoder
  | .h2p => s.h2p
  | .p2h => s.p2h

/-- A direction's feed of the byte, with the provenance at the front of the window. -/
def State.feed (s : State) (dir : LinkDir) (b : Byte) : FeedOut :=
  dcdFeed s.cfg dir (s.decoder dir) b s.frontProv

/-! ## One byte -/

theorem actDcdByte_eq (b : Byte) (s : State) : actDcdByte b s =
    { pop 1 (arbitrate (s.feed .h2p b) (s.feed .p2h b) s.frontProv
        (feedBoth (s.feed .h2p b) (s.feed .p2h b) s)) with site := .dcd } := rfl

@[simp] theorem actDcdByte_cfg (b : Byte) (s : State) : (actDcdByte b s).cfg = s.cfg :=
  (seqWork_actDcdByte b s).cfg

@[simp] theorem actDcdByte_buf (b : Byte) (s : State) :
    (actDcdByte b s).win.buf = s.win.buf.drop 1 := by
  have hwin := (linkWork_linkFeed b s.frontProv s).win
  show (linkFeed b s.frontProv s).win.buf.drop 1 = _
  rw [hwin]

@[simp] theorem emitRecord_records (k : Kind) (p : Option Prov) (g : Geom) (d : List Byte) (s : State) :
    (emitRecord k p g d s).records = s.records ++ [mkRecord k p g d] :=
  records_of_trace (emitRecord_trace k p g d s)

@[simp] theorem feedBoth_records (h p : FeedOut) (s : State) :
    (feedBoth h p s).records = s.records := by
  simp [State.records, feedBoth, Output.record?]

/-- Feeds of which neither is valid and one is hopeful leave the link as they leave it (R230). -/
theorem arbitrate_quiet {h p : FeedOut} (hh : h.res.isValid = false) (hp : p.res.isValid = false)
    (hope : h.res = .hopeful ∨ p.res = .hopeful) (prov : Option Prov) (s : State) :
    arbitrate h p prov s = s := by
  unfold arbitrate
  split
  · simp_all [FeedResult.isValid]
  · simp_all [FeedResult.isValid]
  · rw [if_neg]
    rcases hope with h | h <;> simp [h, FeedResult.lost]

/-- No record is delivered, and each decoder is as its own feed leaves it. -/
theorem actDcdByte_quiet {dir : LinkDir} {b : Byte} {s : State} (hd : (s.feed dir b).res = .hopeful)
    (ho : (s.feed dir.other b).res.isValid = false) :
    (actDcdByte b s).records = s.records ∧
      ∀ x, (actDcdByte b s).decoder x = (s.feed x b).dec := by
  have hquiet : arbitrate (s.feed .h2p b) (s.feed .p2h b) s.frontProv
      (feedBoth (s.feed .h2p b) (s.feed .p2h b) s) = feedBoth (s.feed .h2p b) (s.feed .p2h b) s := by
    cases dir
    · exact arbitrate_quiet (by rw [hd]; rfl) ho (.inl hd) ..
    · exact arbitrate_quiet ho (by rw [hd]; rfl) (.inr hd) ..
  rw [actDcdByte_eq, hquiet]
  exact ⟨feedBoth_records .., fun x => by cases x <;> rfl⟩

/-- A valid frame is delivered, of H2P where both are valid, and hands its seed over (R231, R232). -/
theorem actDcdByte_valid {dir : LinkDir} {b : Byte} {s : State} {pl : List Byte} {ig : Option Bits7}
    {sp : Option Prov} (hd : (s.feed dir b).res = .valid pl ig sp)
    (ho : dir = .p2h → (s.feed .h2p b).res.isValid = false) :
    (actDcdByte b s).records = s.records ++ [mkRecord dir.kind sp .none pl] ∧
      (actDcdByte b s).decoder dir = dcdReset none ∧
      (actDcdByte b s).decoder dir.other = dcdReset ig := by
  have hrecords (k : Kind) : (emitRecord k sp .none pl
      (feedBoth (s.feed .h2p b) (s.feed .p2h b) s)).records =
        s.records ++ [mkRecord k sp .none pl] := by
    rw [emitRecord_records, feedBoth_records]
  rw [actDcdByte_eq, arbitrate]
  cases dir with
  | h2p =>
    rw [hd]
    exact ⟨hrecords _, rfl, rfl⟩
  | p2h =>
    have ho := ho rfl
    rw [hd]
    cases hres : (s.feed .h2p b).res with
    | valid => simp [hres, FeedResult.isValid] at ho
    | hopeful | gaveUp | invalid => exact ⟨hrecords _, rfl, rfl⟩

/-- Where neither decoder is hopeful the link is desynchronized (R233). -/
theorem actDcdByte_desync {b : Byte} {s : State} (h : (s.feed .h2p b).res = .invalid)
    (p : (s.feed .p2h b).res = .invalid) :
    (actDcdByte b s).records = s.records ∧ (actDcdByte b s).h2p = dcdReset none ∧
      (actDcdByte b s).p2h = dcdReset none ∧
      (actDcdByte b s).events.getLast? = some (.desync s.frontProv) := by
  rw [actDcdByte_eq, arbitrate, h, p]
  refine ⟨?_, rfl, rfl, ?_⟩
  · simp [State.records, feedBoth, List.filterMap_append, Output.record?, FeedResult.lost]
  · simp [State.events, feedBoth, List.filterMap_append, Output.event?, FeedResult.lost]

/-! ## A run of bytes -/

theorem feedBytes_append (xs ys : List Byte) (s : State) :
    feedBytes (xs ++ ys) s = feedBytes ys (feedBytes xs s) := List.foldl_append

theorem feedBytes_cons (b : Byte) (bs : List Byte) (s : State) :
    feedBytes (b :: bs) s = feedBytes bs (actDcdByte b s) := rfl

theorem records_prefix_feedBytes (bs : List Byte) (s : State) :
    s.records <+: (feedBytes bs s).records := by
  induction bs generalizing s with
  | nil => exact List.prefix_rfl
  | cons b bs ih =>
    obtain ⟨outs, htrace, -⟩ := (seqWork_actDcdByte b s).trace
    have hbyte : s.records <+: (actDcdByte b s).records := ⟨_, (records_of_trace htrace).symm⟩
    exact hbyte.trans (ih _)

/-- The direction's own parse of the bytes, from the state, yields a valid frame (R237). -/
def State.yields (s : State) (dir : LinkDir) (bs : List Byte) : Bool :=
  yieldsFrame s.cfg dir (s.decoder dir) bs

theorem State.yields_cons (s : State) (dir : LinkDir) (b : Byte) (bs : List Byte) :
    s.yields dir (b :: bs) =
      ((s.feed dir b).res.isValid || yieldsFrame s.cfg dir (s.feed dir b).dec bs) :=
  yieldsFrame_cons_prov ..

/-- The bytes leave no record, the direction's decoder as `d`, and the other one in the middle of its
parse. -/
structure QuietRun (dir : LinkDir) (bs : List Byte) (s t : State) (d : DcdDecoder) : Prop where
  cfg     : t.cfg = s.cfg
  records : t.records = s.records
  own     : t.decoder dir = d
  other   : ∀ rest, t.yields dir.other rest = s.yields dir.other (bs ++ rest)

/-- While one decoder is hopeful and the other yields no frame, nothing is delivered. -/
theorem quietRun_of_hopefulRun {dir : LinkDir} {bs : List Byte} {s : State} {d : DcdDecoder}
    (hrun : HopefulRun s.cfg dir s.win.buf (s.decoder dir) bs d)
    (ho : s.yields dir.other bs = false) : QuietRun dir bs s (feedBytes bs s) d := by
  induction bs generalizing s with
  | nil =>
    cases hrun
    exact ⟨rfl, rfl, rfl, fun _ => rfl⟩
  | cons b bs ih =>
    cases hrun with
    | cons hres hdec hrest =>
    rw [State.yields_cons, Bool.or_eq_false_iff] at ho
    obtain ⟨hrecords, hdecoder⟩ := actDcdByte_quiet (b := b) hres ho.1
    have hown : (actDcdByte b s).decoder dir = _ := (hdecoder dir).trans hdec
    have hother (rest : List Byte) : (actDcdByte b s).yields dir.other rest =
        yieldsFrame s.cfg dir.other (s.feed dir.other b).dec rest := by
      rw [State.yields, actDcdByte_cfg, hdecoder]
    have htail := ih (s := actDcdByte b s) (by rw [actDcdByte_cfg, actDcdByte_buf, hown]; exact hrest)
      ((hother bs).trans ho.2)
    refine ⟨htail.cfg.trans (actDcdByte_cfg b s), htail.records.trans hrecords, htail.own,
      fun rest => ?_⟩
    rw [feedBytes_cons, htail.other, hother, List.cons_append, State.yields_cons, ho.1,
      Bool.false_or]

/-- A feed of the other decoder that yields a frame adds a record of its kind. -/
theorem actDcdByte_otherRecord {dir : LinkDir} {b : Byte} {s : State}
    (ho : (s.feed dir.other b).res.isValid = true)
    (hd : dir = .h2p → (s.feed .h2p b).res.isValid = false) :
    ∃ r : Record, r.kind = dir.other.kind ∧ (actDcdByte b s).records = s.records ++ [r] := by
  obtain ⟨pl, ig, sp, hres⟩ := (FeedResult.isValid_iff _).mp ho
  have hfirst : dir.other = .p2h → (s.feed .h2p b).res.isValid = false := by
    cases dir
    · exact fun _ => hd rfl
    · intro h
      cases h
  exact ⟨_, rfl, (actDcdByte_valid hres hfirst).1⟩

/-- Where the other decoder yields a frame, the first new record is of its kind. -/
theorem otherRecord_first {dir : LinkDir} {bs : List Byte} {s : State} {d : DcdDecoder}
    (hrun : HopefulRun s.cfg dir s.win.buf (s.decoder dir) bs d)
    (ho : s.yields dir.other bs = true) :
    ∃ r : Record, r.kind = dir.other.kind ∧ s.records ++ [r] <+: (feedBytes bs s).records := by
  induction bs generalizing s with
  | nil => simp [State.yields] at ho
  | cons b bs ih =>
    cases hrun with
    | cons hres hdec hrest =>
    rw [State.yields_cons, Bool.or_eq_true] at ho
    cases hv : (s.feed dir.other b).res.isValid with
    | true =>
      obtain ⟨r, hkind, hrecords⟩ := actDcdByte_otherRecord hv (by rintro rfl; exact congrArg _ hres)
      exact ⟨r, hkind, hrecords ▸ records_prefix_feedBytes bs _⟩
    | false =>
      obtain ⟨hrecords, hdecoder⟩ := actDcdByte_quiet (b := b) hres hv
      obtain ⟨r, hkind, hprefix⟩ := ih (s := actDcdByte b s)
        (by rw [actDcdByte_cfg, actDcdByte_buf, hdecoder]; exact hdec ▸ hrest)
        (by rw [State.yields, actDcdByte_cfg, hdecoder]; exact ho.resolve_left (by simp [hv]))
      exact ⟨r, hkind, hrecords ▸ hprefix⟩

/-! ## A frame -/

section
variable {dir : LinkDir} {s : State} {init : List Byte} {last : Byte} {res : FeedResult}

theorem feedBytes_concat (bs : List Byte) (b : Byte) (s : State) :
    feedBytes (bs ++ [b]) s = actDcdByte b (feedBytes bs s) := feedBytes_append ..

/-- Up to its last byte a frame is quiet, where the other decoder is. -/
theorem FrameRun.quietRun (h : FrameRun s.cfg dir s.win.buf (s.decoder dir) init last res)
    (ho : s.yields dir.other init = false) :
    ∃ d, QuietRun dir init s (feedBytes init s) d ∧ ((feedBytes init s).feed dir last).res = res := by
  obtain ⟨d, hrun, hlast⟩ := h
  have hquiet := quietRun_of_hopefulRun hrun ho
  refine ⟨d, hquiet, ?_⟩
  rw [State.feed, hquiet.cfg, hquiet.own]
  exact hlast _

/-- What the other decoder's feed of a frame's last byte yields. -/
theorem QuietRun.otherLast {d : DcdDecoder} {t : State} (h : QuietRun dir init s t d) (b : Byte) :
    (t.feed dir.other b).res.isValid = s.yields dir.other (init ++ [b]) := by
  rw [← h.other, State.yields_cons, yieldsFrame_nil, Bool.or_false]

/-- A valid frame is delivered where the other decoder yields none before, nor H2P one with it (R230 to
R232). -/
theorem FrameRun.delivers {pl : List Byte} {ig : Option Bits7} {sp : Option Prov}
    (h : FrameRun s.cfg dir s.win.buf (s.decoder dir) init last (.valid pl ig sp))
    (ho : s.yields dir.other init = false)
    (hlast : dir = .p2h → s.yields .h2p (init ++ [last]) = false) :
    (feedBytes (init ++ [last]) s).records = s.records ++ [mkRecord dir.kind sp .none pl] ∧
      (feedBytes (init ++ [last]) s).decoder dir = dcdReset none ∧
      (feedBytes (init ++ [last]) s).decoder dir.other = dcdReset ig := by
  obtain ⟨d, hquiet, hres⟩ := h.quietRun ho
  rw [feedBytes_concat, ← hquiet.records]
  refine actDcdByte_valid hres ?_
  rintro rfl
  exact (hquiet.otherLast last).trans (hlast rfl)

/-- Where the other decoder yields a frame before the last byte, or H2P one with it, the first new record
is of its kind (R231; log entry 17). -/
theorem FrameRun.otherRecord (h : FrameRun s.cfg dir s.win.buf (s.decoder dir) init last res)
    (ho : s.yields dir.other init = true ∨
      (dir = .p2h ∧ s.yields .h2p (init ++ [last]) = true)) :
    ∃ r : Record, r.kind = dir.other.kind ∧
      s.records ++ [r] <+: (feedBytes (init ++ [last]) s).records := by
  rw [feedBytes_append]
  cases hinit : s.yields dir.other init with
  | true =>
    obtain ⟨d, hrun, -⟩ := h
    obtain ⟨r, hkind, hprefix⟩ := otherRecord_first hrun hinit
    exact ⟨r, hkind, hprefix.trans (records_prefix_feedBytes ..)⟩
  | false =>
    obtain ⟨rfl, hlast⟩ := ho.resolve_left (by simp [hinit])
    obtain ⟨d, hquiet, -⟩ := h.quietRun hinit
    obtain ⟨r, hkind, hrecords⟩ := actDcdByte_otherRecord (dir := .p2h)
      ((hquiet.otherLast last).trans hlast) (by simp)
    exact ⟨r, hkind, (hquiet.records ▸ hrecords) ▸ List.prefix_rfl⟩

/-- A frame that is invalid for both decoders delivers nothing, and the link is desynchronized (R233). -/
theorem FrameRun.desync (h : FrameRun s.cfg .h2p s.win.buf s.h2p init last .invalid)
    (p : FrameRun s.cfg .p2h s.win.buf s.p2h init last .invalid) :
    (feedBytes (init ++ [last]) s).records = s.records ∧
      (feedBytes (init ++ [last]) s).h2p = dcdReset none ∧
      (feedBytes (init ++ [last]) s).p2h = dcdReset none ∧
      ∃ prov, (feedBytes (init ++ [last]) s).events.getLast? = some (.desync prov) := by
  obtain ⟨d, hquiet, hres⟩ := FrameRun.quietRun (dir := .h2p) h p.yieldsFrame.1
  obtain ⟨d', -, pres⟩ := FrameRun.quietRun (dir := .p2h) p h.yieldsFrame.1
  obtain ⟨hrecords, hh, hp, hlast⟩ := actDcdByte_desync hres pres
  rw [feedBytes_concat, ← hquiet.records]
  exact ⟨hrecords, hh, hp, _, hlast⟩

end

end Sys2Proof.Machine
end

section
/-! The frames and replies that R148 builds are delivered (42_dcd.md R230 to R238). -/

namespace Sys2Proof.Machine

theorem atGroupStart_groupsStart (seed : Option Bits7) (out : Bits7) (ins : Option Bits7)
    (sync : Option Prov) : AtGroupStart (groupsStart seed out ins sync) := ⟨rfl, rfl, rfl⟩

/-- DCDFRAME's bytes, read by an unseeded decoder (R130, R148, R215). -/
theorem frameRun_asmDcdFrame {gs : List (List Byte)} (hgs : ∀ g ∈ gs, g.length = 7)
    (hpos : 0 < gs.length) (hmax : gs.length ≤ 127) (inGroups : Bits7) (conts : List Bool) :
    ∃ init last, asmDcdFrame gs inGroups conts = init ++ [last] ∧
      ∀ (cfg : Config) (dir : LinkDir) (es : List Entry) (d : DcdDecoder) (fresh : Bool),
        d = seeking none fresh →
        ∃ pl, ((dir = .h2p ∨ cfg.p2hOrder = .lsbFirst) → pl = gs.flatten) ∧
          FrameRun cfg dir es d init last
            (frameResult dir pl (some inGroups) (es.head?.map Entry.prov)) := by
  obtain ⟨init, last, hsplit, hrun⟩ := frameRun_groups hgs (List.length_pos_iff.mp hpos) conts
  have hcount : (BitVec.ofNat 7 gs.length).toNat = gs.length := by
    rw [BitVec.toNat_ofNat]
    omega
  refine ⟨[syncByte, joinBit7 true (BitVec.ofNat 7 gs.length), joinBit7 true inGroups] ++ init, last,
    ?_, fun cfg dir es d fresh hd => hd ▸ ?_⟩
  · simp [asmDcdFrame, asmDcdFrameBody, hsplit]
  have hheader := hopefulRun_header cfg dir es (h0 := joinBit7 true (BitVec.ofNat 7 gs.length))
    (by rw [low7_joinBit7, ne_eq, ← BitVec.toNat_inj, hcount]; exact hpos.ne')
    (joinBit7 true inGroups) fresh
  rw [low7_joinBit7, low7_joinBit7] at hheader
  obtain ⟨pl, hpl, hframe⟩ := hrun cfg dir (es.drop 3) _ (atGroupStart_groupsStart ..)
    ((Nat.zero_add _).trans (by rw [← hcount]; rfl))
  exact ⟨pl, hpl, hheader.frameRun hframe⟩

theorem groups_ne_nil {gs : List (List Byte)} {seed : Bits7} (hseed : seed ≠ 0)
    (hcount : gs.length = seed.toNat) : gs ≠ [] := by
  rintro rfl
  exact hseed (BitVec.eq_of_toNat_eq hcount.symm)

/-- DCDREPLY's bytes, read by a decoder with their seed (R133, R148, R216). -/
theorem frameRun_asmDcdReply {gs : List (List Byte)} {seed : Bits7} (hgs : ∀ g ∈ gs, g.length = 7)
    (hne : gs ≠ []) (hseed : seed ≠ 0) (hcount : gs.length = seed.toNat) (conts : List Bool) :
    ∃ init last, asmGroups gs conts = init ++ [last] ∧
      ∀ (cfg : Config) (dir : LinkDir) (es : List Entry) (d : DcdDecoder) (fresh : Bool),
        d = seeking (some seed) fresh → (dir = .h2p ∨ cfg.p2hOrder = .lsbFirst) →
          FrameRun cfg dir es d (syncByte :: init) last
            (frameResult dir gs.flatten none (es.head?.map Entry.prov)) := by
  obtain ⟨init, last, hsplit, hrun⟩ := frameRun_groups hgs hne conts
  refine ⟨init, last, hsplit, fun cfg dir es d fresh hd horder => hd ▸ ?_⟩
  obtain ⟨pl, hpl, hframe⟩ := hrun cfg dir (es.drop 1) _ (atGroupStart_groupsStart ..)
    (by rw [hcount]; exact Nat.zero_add _)
  rw [hpl horder] at hframe
  exact (hopefulRun_seeded cfg dir es hseed fresh).frameRun hframe

/-- The groups' first byte has the low 7 bits of the payload's. -/
theorem asmGroups_front {gs : List (List Byte)} (hgs : ∀ g ∈ gs, g.length = 7) (hne : gs ≠ [])
    (conts : List Bool) : ∃ b rest, asmGroups gs conts = b :: rest ∧
      low7 b = (byteAt gs.flatten 0).extractLsb' 0 7 := by
  match gs with
  | [] => exact absurd rfl hne
  | [] :: _ => simp at hgs
  | (p :: g) :: gs => exact ⟨joinBit7 true (low7 p), _, rfl, low7_joinBit7 ..⟩

/-- An unseeded decoder yields no frame in the first bytes of a reply, where the first of them announces
no group or more than they hold. -/
theorem yieldsFrame_asmGroups {gs : List (List Byte)} (hgs : ∀ g ∈ gs, g.length = 7) (hne : gs ≠ [])
    {conts : List Bool} {bs tail : List Byte} (hsplit : asmGroups gs conts = bs ++ tail) (first : Bits7)
    (hfirst : first = (byteAt gs.flatten 0).extractLsb' 0 7)
    (h : first = 0 ∨ bs.length < 2 + 8 * first.toNat) (cfg : Config) (dir : LinkDir) (fresh : Bool) :
    yieldsFrame cfg dir (seeking none fresh) (syncByte :: bs) = false := by
  cases bs with
  | nil => rfl
  | cons b bs =>
    obtain ⟨b', rest, hfront, hlow⟩ := asmGroups_front hgs hne conts
    obtain rfl : b' = b := by
      rw [hfront] at hsplit
      exact (List.cons.inj hsplit).1
    rw [hfirst, ← hlow] at h
    exact yieldsFrame_seeking_none cfg dir fresh h

theorem frameResult_valid {dir : LinkDir} {pl : List Byte} (h : validPayload dir pl = true)
    (ig : Option Bits7) (sp : Option Prov) : frameResult dir pl ig sp = .valid pl ig sp := if_pos h

theorem frameResult_invalid {dir : LinkDir} {pl : List Byte} (h : validPayload dir pl = false)
    (ig : Option Bits7) (sp : Option Prov) : frameResult dir pl ig sp = .invalid := if_neg (by simp [h])

theorem validPayload_of_byteSum {p : List Byte} (h : byteSum p ≠ 0) (dir : LinkDir) :
    validPayload dir p = false :=
  Bool.eq_false_iff.mpr fun hv => h (validPayload_byteSum hv)

end Sys2Proof.Machine

open Sys2Proof Sys2Proof.Machine

/-- Settles O44: both decoders read the frame in step, and complete it on its last byte. -/
theorem dcdFrameIsReconstructed : Obligations.DcdFrameIsReconstructed := by
  intro s gs inGroups conts hgs hpos hmax hh hp
  obtain ⟨init, last, hsplit, hrun⟩ := frameRun_asmDcdFrame hgs hpos hmax inGroups conts
  obtain ⟨plh, hplh, hframe⟩ := hrun s.cfg .h2p s.win.buf s.h2p true hh
  obtain ⟨plp, hplp, pframe⟩ := hrun s.cfg .p2h s.win.buf s.p2h true hp
  obtain rfl := hplh (.inl rfl)
  refine ⟨feedBytes (init ++ [last]) s, by rw [← hsplit]; rfl, fun hv => ?_, fun horder hv => ?_,
    fun horder hsum => ?_⟩
  · rw [frameResult_valid hv] at hframe
    exact FrameRun.delivers (dir := .h2p) hframe pframe.yieldsFrame.1 (by simp)
  · obtain rfl := hplp (.inr horder)
    rw [frameResult_valid hv] at pframe
    rw [frameResult_invalid (validPayload_h2p_of_p2h hv)] at hframe
    obtain ⟨hrecords, hown, hother⟩ :=
      FrameRun.delivers (dir := .p2h) pframe hframe.yieldsFrame.1 (fun _ => hframe.yieldsFrame.2)
    exact ⟨hrecords, hother, hown⟩
  · obtain rfl := hplp (.inr horder)
    rw [frameResult_invalid (validPayload_of_byteSum hsum _)] at hframe pframe
    exact hframe.desync pframe

/-- Settles O45: P2H is hopeful up to the reply's last byte, so that only a frame of H2P's can come
first. -/
theorem dcdReplyIsReconstructed : Obligations.DcdReplyIsReconstructed := by
  intro s seed gs conts first hgs hseed hcount horder hp hfirst
  have hne := groups_ne_nil hseed hcount
  obtain ⟨init, last, hsplit, hrun⟩ := frameRun_asmDcdReply hgs hne hseed hcount conts
  have hframe := hrun s.cfg .p2h s.win.buf (s.decoder .p2h) s.p2h.fresh hp (.inr horder)
  have hbytes : syncByte :: asmGroups gs conts = syncByte :: init ++ [last] := by
    rw [hsplit, List.cons_append]
  refine ⟨feedBytes (syncByte :: asmGroups gs conts) s, rfl, fun hquiet hv => ?_, fun hyields => ?_⟩
  · have ho : s.yields .h2p (syncByte :: asmGroups gs conts) = false := by
      rcases hquiet with h | ⟨hh, hshort⟩
      · exact h
      · have hwait : s.decoder .h2p = seeking none s.h2p.fresh := hh
        rw [State.yields, hwait]
        exact yieldsFrame_asmGroups hgs hne (List.append_nil _).symm first hfirst hshort ..
    rw [hbytes] at ho ⊢
    rw [frameResult_valid hv] at hframe
    obtain ⟨hrecords, hown, hother⟩ :=
      hframe.delivers (yieldsFrame_append_left _ _ _ _ _ ho) (fun _ => ho)
    exact ⟨hrecords, hother, hown⟩
  · have ho : s.yields .h2p (syncByte :: asmGroups gs conts) = true := hyields
    rw [hbytes] at ho ⊢
    exact hframe.otherRecord (.inr ⟨rfl, ho⟩)

/-- Settles O60: as O45 with the directions exchanged, but H2P wins on the last byte. -/
theorem dcdReplyToPeerIsReconstructed : Obligations.DcdReplyToPeerIsReconstructed := by
  intro s seed gs conts first hgs hseed hcount hh hfirst
  have hne := groups_ne_nil hseed hcount
  obtain ⟨init, last, hsplit, hrun⟩ := frameRun_asmDcdReply hgs hne hseed hcount conts
  have hframe := hrun s.cfg .h2p s.win.buf (s.decoder .h2p) s.h2p.fresh hh (.inl rfl)
  have hbytes : syncByte :: asmGroups gs conts = syncByte :: init ++ [last] := by
    rw [hsplit, List.cons_append]
  have hinit : (asmGroups gs conts).dropLast = init := by rw [hsplit, List.dropLast_concat]
  rw [hinit]
  refine ⟨feedBytes (syncByte :: asmGroups gs conts) s, rfl, fun hquiet hv => ?_, fun hyields => ?_⟩
  · have ho : s.yields .p2h (syncByte :: init) = false := by
      rcases hquiet with h | ⟨hp, hshort⟩
      · exact h
      · have hwait : s.decoder .p2h = seeking none s.p2h.fresh := hp
        rw [State.yields, hwait]
        refine yieldsFrame_asmGroups hgs hne hsplit first hfirst (hshort.imp_right fun h => ?_) ..
        rw [hsplit, List.length_append, List.length_singleton] at h
        omega
    rw [hbytes]
    rw [frameResult_valid hv] at hframe
    exact hframe.delivers ho (by simp)
  · rw [hbytes]
    exact hframe.otherRecord (.inl hyields)

end

section
/-! POP and SKIP as whole-state equations, and `act` site by site (40_operations.md R158 to R162,
41_framer_window.md R190 to R194). -/

namespace Sys2Proof.Machine

/-! ## The window -/

/-- POP drops the window's oldest entries and changes nothing else (R193, R194). -/
theorem pop_eq_dropped (n : Nat) (s : State) : pop n s = { s with win := s.win.dropped n } := by
  simp only [pop, Window.dropped, List.drop_eq_nil_iff]

/-- SKIP reports the dropped byte, if there is one (R161). -/
theorem skip_eq (s : State) : skip s =
    { s with
      win := s.win.dropped 1
      trace := s.trace ++ (s.win.buf.take 1).map fun e => .event (.skip (some e.prov) e.byte) } := by
  unfold skip
  split
  · rename_i hbuf
    simp [pop_eq_dropped, hbuf]
  · rename_i hbuf
    simp [pop_eq_dropped, hbuf, emitEvent, emit]

theorem toSearch_of_search {s : State} (hsite : s.site = .search) : toSearch s = s := by
  simp [toSearch, ← hsite]

theorem toSearch_skip {s : State} (hsite : s.site = .search) : toSearch (skip s) =
    { s with
      win := s.win.dropped 1
      trace := s.trace ++ (s.win.buf.take 1).map fun e => .event (.skip (some e.prov) e.byte) } := by
  rw [skip_eq]
  exact toSearch_of_search hsite

/-! ## `act` at each site -/

section
variable {s : State}

theorem actGcrSearch_miss {r : List Byte} (haddr : r ≠ sigGcrAddr) (hdata : r ≠ sigGcrData) :
    actGcrSearch r s = toSearch (skip s) := by
  rw [actGcrSearch, if_neg haddr, if_neg hdata]

theorem actMfmSearch_miss {p : Option Prov} {r : List Byte} (hindex : r ≠ sigMfmIndex)
    (haddr : r ≠ sigMfmAddr) (hdata : r ≠ sigMfmData) : actMfmSearch p r s = toSearch (skip s) := by
  rw [actMfmSearch, if_neg hindex, if_neg haddr, if_neg hdata]

theorem act_gcrSearch (hmode : s.mode = .gcr) (hsite : s.site = .search) :
    act s = actGcrSearch ((s.win.buf.take 3).map Entry.byte) s := by
  simp [act, hmode, hsite, want]

theorem act_mfmSearch (hmode : s.mode = .mfm) (hsite : s.site = .search) :
    act s = actMfmSearch s.frontProv ((s.win.buf.take 4).map Entry.byte) s := by
  simp [act, hmode, hsite, want, State.frontProv]

theorem act_gcrAddr (hsite : s.site = .gcrAddr) :
    act s = actGcrAddr s.frontProv ((s.win.buf.take 10).map Entry.byte) s := by
  simp [act, hsite, want, State.frontProv]

theorem act_gcrData (hsite : s.site = .gcrData) :
    act s = actGcrData s.frontProv ((s.win.buf.take 709).map Entry.byte) s := by
  simp [act, hsite, want, State.frontProv]

theorem act_mfmAddr (hsite : s.site = .mfmAddr) :
    act s = actMfmAddr s.frontProv ((s.win.buf.take 10).map Entry.byte) s := by
  simp [act, hsite, want, State.frontProv]

theorem act_mfmData (hsite : s.site = .mfmData) :
    act s = actMfmData s.frontProv ((s.win.buf.take 518).map Entry.byte) s := by
  simp [act, hsite, want, State.frontProv]

/-- The sequencer feeds the link next: it is at site `Dcd`, as which `Search` in DCD mode is read. -/
def State.feedsLink (s : State) : Prop := s.site = .dcd ∨ (s.site = .search ∧ s.mode = .dcd)

theorem act_feedsLink (h : s.feedsLink) : act s = actDcd ((s.win.buf.take 1).map Entry.byte) s := by
  rcases h with hsite | ⟨hsite, hmode⟩
  · simp [act, hsite, want]
  · simp [act, hsite, hmode, want]

theorem act_feedsLink_nil (h : s.feedsLink) (hbuf : s.win.buf = []) :
    act s = { s with site := .dcd, win := ⟨[], false⟩ } := by
  rw [act_feedsLink h]
  simp [hbuf, actDcd, pop]

theorem act_feedsLink_cons (h : s.feedsLink) {b : Byte} {bs : List Byte}
    (hbuf : s.win.buf.map Entry.byte = b :: bs) : act s = actDcdByte b s := by
  rw [act_feedsLink h, List.map_take, hbuf]
  rfl

end

theorem actDcdByte_eq_dropped (b : Byte) (s : State) : actDcdByte b s =
    { linkFeed b s.frontProv s with
      site := .dcd
      win := (linkFeed b s.frontProv s).win.dropped 1 } := by
  show { pop 1 (linkFeed b s.frontProv s) with site := .dcd } = _
  rw [pop_eq_dropped]

end Sys2Proof.Machine

open Sys2Proof Sys2Proof.Machine

/-- Settles O21: the search compares the front of the window with the two signatures, and a record site
hands its bytes to the evaluation. -/
theorem gcrSequencerActs : Obligations.GcrSequencerActs := by
  refine ⟨fun s sig hmode hsite hsig => ?_, fun s => ⟨act_gcrAddr, act_gcrData⟩⟩
  rw [act_gcrSearch hmode hsite, ← hsig]
  refine ⟨?_, ?_, fun haddr hdata => ?_⟩
  · rintro rfl
    rfl
  · rintro rfl
    rfl
  · exact (actGcrSearch_miss haddr hdata).trans (toSearch_skip hsite)

/-- Settles O22: as O21 with three signatures, of which the index mark is popped whole. -/
theorem mfmSequencerActs : Obligations.MfmSequencerActs := by
  refine ⟨fun s sig hmode hsite hsig => ?_, fun s => ⟨act_mfmAddr, act_mfmData⟩⟩
  rw [act_mfmSearch hmode hsite, ← hsig]
  refine ⟨?_, ?_, ?_, fun hindex haddr hdata => ?_⟩
  · rintro rfl
    show toSearch (pop 4 (emitEvent _ s)) = _
    rw [pop_eq_dropped]
    exact toSearch_of_search hsite
  · rintro rfl
    rfl
  · rintro rfl
    rfl
  · exact (actMfmSearch_miss hindex haddr hdata).trans (toSearch_skip hsite)

/-- Settles O43: site `Dcd` feeds the byte at the front of the window, and a frame's last byte is fed
after the others. -/
theorem dcdFramesFeedEachByte : Obligations.DcdFramesFeedEachByte := by
  refine ⟨fun s hsite => ⟨fun hbuf => ?_, ?_⟩, fun s seed => ⟨?_, fun body b => ?_⟩⟩
  · rw [act_feedsLink_nil (.inl hsite) hbuf, ← hsite]
  · rintro e es t hbuf rfl
    have hprov : s.frontProv = some e.prov := by simp [State.frontProv, hbuf]
    rw [act_feedsLink_cons (.inl hsite) (congrArg (List.map Entry.byte) hbuf), actDcdByte_eq_dropped,
      hprov]
  · rintro t rfl
    exact ⟨congrArg _ (actDcdByte_eq_dropped 0xAA s), congrArg _ (actDcdByte_eq_dropped 0xAA s)⟩
  · have heq := congrArg (Host.Outcome.next (φ := Fault) (ρ := Refusal))
      ((feedBytes_concat (syncByte :: body) b s).trans (actDcdByte_eq_dropped b _))
    exact ⟨feedBytes (syncByte :: body) s, _, rfl, rfl, rfl, heq, heq⟩

end

section
/-! RESUME runs `act` until a read is pending, and the sequencer's invariant (40_operations.md R156,
R157). -/

namespace Sys2Proof.Machine

/-! ## What one iteration does to the window -/

/-- The window of `t` is that of `s` after a POP of at least one byte. -/
def Pops (s t : State) : Prop := ∃ n, 0 < n ∧ t.win = (pop n s).win

theorem pops_skip (s : State) : Pops s (skip s) := by
  obtain ⟨outs, h, -⟩ := skip_spec s
  exact ⟨1, by decide, by rw [h]⟩

theorem pops_failCandidate (e : Event) (s : State) : Pops s (failCandidate e s) := ⟨1, by decide, rfl⟩

theorem pops_gcrAddrEval (p : Option Prov) (r : List Byte) (s : State) :
    Pops s (gcrAddrEval p r s) := by
  rcases gcrAddrEval_cases p r s with ⟨e, -, h⟩ | ⟨g, h⟩
  · exact h ▸ pops_failCandidate e s
  · exact h ▸ ⟨lenGcrAddr, by decide, rfl⟩

theorem pops_gcrDataEval (p : Option Prov) (r : List Byte) (s : State) :
    Pops s (gcrDataEval p r s) := by
  rcases gcrDataEval_cases p r s with ⟨e, -, h⟩ | ⟨g, v, -, -, -, -, h⟩
  · exact h ▸ pops_failCandidate e s
  · exact h ▸ ⟨lenGcrData, by decide, rfl⟩

theorem pops_mfmAddrEval (p : Option Prov) (r : List Byte) (s : State) :
    Pops s (mfmAddrEval p r s) := by
  rcases mfmAddrEval_cases p r s with ⟨e, -, h⟩ | ⟨g, -, h⟩
  · exact h ▸ pops_failCandidate e s
  · exact h ▸ ⟨lenMfmAddr, by decide, rfl⟩

theorem pops_mfmDataEval (p : Option Prov) (r : List Byte) (s : State) :
    Pops s (mfmDataEval p r s) := by
  rcases mfmDataEval_cases p r s with ⟨e, -, h⟩ | ⟨-, -, h⟩
  · exact h ▸ pops_failCandidate e s
  · exact h ▸ ⟨lenMfmData, by decide, rfl⟩

theorem pops_actDcd (r : List Byte) (s : State) : Pops s (actDcd r s) := by
  unfold actDcd
  split
  · exact ⟨1, by decide, rfl⟩
  · rename_i b _
    have hwin := (linkWork_linkFeed b s.frontProv s).win
    exact ⟨1, by decide, by rw [actDcdByte_eq_dropped, hwin, pop_eq_dropped]⟩

/-- One iteration of the sequencer either finds a record site's signature at `Search` and moves there
without a POP, or pops, after which the sequencer of a legal site is where a session starts. -/
inductive Iteration (s : State) : State → Prop where
  | found (site : Site) (hsite : s.site = .search) (hfits : site.fits s.mode = true)
      (hrecord : site ≠ .search)
      (hfront : (s.win.buf.map Entry.byte).take site.signature.length = site.signature) :
      Iteration s { s with site := site }
  | popped {t : State} (hpops : Pops s t)
      (hsite : s.site.fits s.mode = true → t.site = startSite s.mode) : Iteration s t

theorem startSite_of_fits {m : Mode} {site : Site} (h : site.fits m = true) (hsite : site ≠ .dcd) :
    startSite m = .search := by
  cases m <;> cases site <;> simp [Site.fits, startSite] at h hsite ⊢

theorem mode_of_fits_dcd {m : Mode} (h : Site.fits m .dcd = true) : m = .dcd := by
  cases m <;> simp [Site.fits] at h ⊢

section
variable {s : State}

theorem Iteration.of_toSearch {t : State} (h : Pops s t) (hsite : s.site ≠ .dcd) :
    Iteration s (toSearch t) :=
  .popped h fun hfits => (startSite_of_fits hfits hsite).symm

/-- A PEEK of `n` bytes that reads a record site's signature finds it at the front of the window. -/
theorem Iteration.of_peek {site : Site} {n : Nat} (hsite : s.site = .search)
    (hfits : site.fits s.mode = true) (hrecord : site ≠ .search) (hlen : site.signature.length = n)
    (h : (s.win.buf.take n).map Entry.byte = site.signature) : Iteration s { s with site := site } :=
  .found site hsite hfits hrecord (by rw [hlen, ← List.map_take, h])

theorem iteration_gcrSearch (hmode : s.mode = .gcr) (hsite : s.site = .search) :
    Iteration s (act s) := by
  rw [act_gcrSearch hmode hsite, actGcrSearch]
  split_ifs with haddr hdata
  · exact .of_peek (site := .gcrAddr) hsite (hmode ▸ rfl) (by simp) rfl haddr
  · exact .of_peek (site := .gcrData) hsite (hmode ▸ rfl) (by simp) rfl hdata
  · exact .of_toSearch (pops_skip s) (by simp [hsite])

theorem iteration_mfmSearch (hmode : s.mode = .mfm) (hsite : s.site = .search) :
    Iteration s (act s) := by
  rw [act_mfmSearch hmode hsite, actMfmSearch]
  split_ifs with hindex haddr hdata
  · exact .of_toSearch (t := mfmIndex s.frontProv s) ⟨4, by decide, rfl⟩ (by simp [hsite])
  · exact .of_peek (site := .mfmAddr) hsite (hmode ▸ rfl) (by simp) rfl haddr
  · exact .of_peek (site := .mfmData) hsite (hmode ▸ rfl) (by simp) rfl hdata
  · exact .of_toSearch (pops_skip s) (by simp [hsite])

theorem actDcd_site (r : List Byte) (s : State) : (actDcd r s).site = .dcd := by
  cases r <;> rfl

theorem iteration_feedsLink (h : s.feedsLink) : Iteration s (act s) := by
  rw [act_feedsLink h]
  refine .popped (pops_actDcd _ s) fun hfits => ?_
  have hmode : s.mode = .dcd := by
    rcases h with hsite | ⟨-, hmode⟩
    · exact mode_of_fits_dcd (hsite ▸ hfits)
    · exact hmode
  rw [actDcd_site, hmode, startSite]

/-- One `act` is an iteration, from every state (R158 to R160). -/
theorem iteration_act (s : State) : Iteration s (act s) := by
  cases hsite : s.site with
  | search =>
    cases hmode : s.mode with
    | gcr => exact iteration_gcrSearch hmode hsite
    | mfm => exact iteration_mfmSearch hmode hsite
    | dcd => exact iteration_feedsLink (.inr ⟨hsite, hmode⟩)
  | gcrAddr => exact act_gcrAddr hsite ▸ .of_toSearch (pops_gcrAddrEval ..) (by simp [hsite])
  | gcrData => exact act_gcrData hsite ▸ .of_toSearch (pops_gcrDataEval ..) (by simp [hsite])
  | mfmAddr => exact act_mfmAddr hsite ▸ .of_toSearch (pops_mfmAddrEval ..) (by simp [hsite])
  | mfmData => exact act_mfmData hsite ▸ .of_toSearch (pops_mfmDataEval ..) (by simp [hsite])
  | dcd => exact iteration_feedsLink (.inl hsite)

end

/-! ## The loop ends -/

theorem waiting_iff (s : State) :
    s.waiting = true ↔ s.win.buf.length < want s.mode s.site ∧ s.win.eos = false := by
  simp [State.waiting]

theorem waiting_of_empty {s : State} (h : s.win = ⟨[], false⟩) : s.waiting = true := by
  simp [State.waiting, h, want_pos]

/-- How many iterations can follow before the window is empty: two for each of its bytes, and one more
at `Search`, where the next one may move and not pop. -/
def State.workLeft (s : State) : Nat := 2 * s.win.buf.length + if s.site = .search then 1 else 0

/-- An iteration that pops the window empty clears `eos`, so a read is pending; every other one leaves
less work (R157). -/
theorem Iteration.waiting_or_less {s t : State} (h : Iteration s t) :
    t.waiting = true ∨ t.workLeft < s.workLeft := by
  cases h with
  | found site hsite hfits hrecord =>
    right
    simp [State.workLeft, hsite, hrecord]
  | popped hpops =>
    obtain ⟨n, hn, hwin⟩ := hpops
    by_cases hempty : s.win.buf.drop n = []
    · left
      exact waiting_of_empty (by rw [hwin, pop_win, if_pos hempty, hempty])
    · right
      have hlen : n < s.win.buf.length := by simpa using hempty
      simp only [State.workLeft, hwin, pop_win, List.length_drop]
      split <;> omega

/-- With a bound above the work left, the loop ends at the first iteration after which a read is
pending. -/
theorem resumeFor_reaches_waiting {n : Nat} {s : State} (hwork : s.workLeft < n) :
    ∃ k, 0 < k ∧ k ≤ n ∧ resumeFor n s = act^[k] s ∧ (act^[k] s).waiting = true ∧
      ∀ j, 0 < j → j < k → (act^[j] s).waiting = false := by
  induction n generalizing s with
  | zero => omega
  | succ n ih =>
    cases hwait : (act s).waiting with
    | true => exact ⟨1, by omega, by omega, if_pos hwait, hwait, by omega⟩
    | false =>
      have hless : (act s).workLeft < s.workLeft :=
        (iteration_act s).waiting_or_less.resolve_left (by simp [hwait])
      obtain ⟨k, hpos, hle, hres, hend, hfirst⟩ := ih (s := act s) (by omega)
      have hloop : resumeFor (n + 1) s = resumeFor n (act s) := if_neg (by simp [hwait])
      refine ⟨k + 1, by omega, by omega, hloop.trans hres, hend, fun j hj hjk => ?_⟩
      obtain ⟨j, rfl⟩ := Nat.exists_eq_add_one.mpr hj
      cases j with
      | zero => exact hwait
      | succ j => exact hfirst (j + 1) (by omega) (by omega)

theorem workLeft_lt (s : State) : s.workLeft < 2 * s.win.buf.length + 2 := by
  unfold State.workLeft
  split <;> omega

/-- RESUME ends at a read point (R156). -/
theorem resume_waiting (s : State) : (resume s).waiting = true := by
  obtain ⟨k, -, -, hres, hend, -⟩ := resumeFor_reaches_waiting (workLeft_lt s)
  exact (congrArg State.waiting hres).trans hend

/-- RESUME is one iteration where that already ends at a read point. -/
theorem resume_eq_act {s : State} (h : (act s).waiting = true) : resume s = act s := if_pos h

/-! ## The invariant -/

/-- The site is one of the mode's, and a record site's candidate begins with its signature: what the
sequencer's invariant says of a site, whether or not a read is pending there. -/
structure AtSite (s : State) : Prop where
  fits  : s.site.fits s.mode = true
  front : (s.win.buf.map Entry.byte).take s.site.signature.length = s.site.signature

theorem fits_startSite (m : Mode) : (startSite m).fits m = true := by
  cases m <;> rfl

theorem signature_startSite (m : Mode) : (startSite m).signature = [] := by
  cases m <;> rfl

theorem atSite_startSite {s : State} (h : s.site = startSite s.mode) : AtSite s where
  fits := by rw [h, fits_startSite]
  front := by rw [h, signature_startSite]; rfl

theorem Iteration.atSite {s t : State} (ht : Iteration s t) (hmode : t.mode = s.mode)
    (h : AtSite s) : AtSite t := by
  cases ht with
  | found site hsite hfits hrecord hfront => exact ⟨hfits, hfront⟩
  | popped hpops hsite => exact atSite_startSite (hmode ▸ hsite h.fits)

theorem atSite_act {s : State} (h : AtSite s) : AtSite (act s) :=
  (iteration_act s).atSite (seqWork_act s).mode h

theorem SequencerInv.atSite {s : State} (h : SequencerInv s) : AtSite s := ⟨h.fits, h.front⟩

theorem sequencerInv_resume {s : State} (h : AtSite s) : SequencerInv (resume s) :=
  have hsite : AtSite (resume s) := resume_induct (P := AtSite) (fun _ => atSite_act) s h
  ⟨hsite.fits, resume_waiting s, hsite.front⟩

/-- A byte that is read is appended behind the candidate's signature. -/
theorem atSite_readByte (b : Byte) {s : State} (h : AtSite s) : AtSite (readByte b s) where
  fits := h.fits
  front := by
    have hlen : s.site.signature.length ≤ (s.win.buf.map Entry.byte).length := by
      have := congrArg List.length h.front
      rw [List.length_take] at this
      omega
    rw [readByte_site, readByte_win, List.map_append, List.take_append_of_le_length hlen, h.front]

theorem sequencerInv_opByte (b : Byte) {s : State} (h : SequencerInv s) :
    SequencerInv (opByte b s) := by
  have hread : AtSite (readByte b s) := atSite_readByte b h.atSite
  unfold opByte
  dsimp only
  split_ifs with hfull
  · exact sequencerInv_resume hread
  · exact ⟨hread.fits, (waiting_iff _).mpr ⟨not_le.mp hfull, ((waiting_iff s).mp h.waiting).2⟩,
      hread.front⟩

theorem sequencerInv_opIdle {s : State} (h : SequencerInv s) : SequencerInv (opIdle s) := by
  have hidle : AtSite (framerIdle s) := framerIdle_eq s ▸ ⟨h.fits, h.front⟩
  exact sequencerInv_resume ⟨hidle.fits, hidle.front⟩

theorem sequencerInv_opReset (m : Mode) (s : State) : SequencerInv (opReset m s) where
  fits := fits_startSite m
  waiting := waiting_of_empty rfl
  front := (atSite_startSite (s := opReset m s) rfl).front

theorem sequencerInv_whenRunning {f : State → State} {s : State} (h : SequencerInv s)
    (hf : SequencerInv (f s)) : SequencerInv (whenRunning f s) := by
  rcases whenRunning_cases f s with ⟨-, heq⟩ | ⟨-, q, heq⟩
  · exact heq ▸ hf
  · exact heq ▸ ⟨h.fits, h.waiting, h.front⟩

theorem sequencerInv_exec_word {w : InputWord} {i : Instr} {s t : State} (hw : decodeWord w = .ok i)
    (h : SequencerInv s) (he : exec i s = .next t) : SequencerInv t := by
  rcases decodeWord_cases hw with rfl | ⟨b, rfl⟩ | ⟨m, rfl⟩ | rfl <;> cases he
  · exact sequencerInv_whenRunning h (sequencerInv_opIdle h)
  · exact sequencerInv_whenRunning h (sequencerInv_opByte b h)
  · exact sequencerInv_opReset m s
  · exact sequencerInv_whenRunning h ⟨h.fits, h.waiting, h.front⟩

end Sys2Proof.Machine

open Sys2Proof Sys2Proof.Machine

/-- Settles O53: a read is pending, so a step runs a word; RESUME ends at a read point, and every site it
passes is the mode's, with its signature in front. -/
theorem sequencerInvIsKept : Obligations.SequencerInvIsKept := by
  intro s t hs hstep
  have hread : ∀ ws, SequencerInv { s with input := ws } := fun _ => ⟨hs.fits, hs.waiting, hs.front⟩
  rcases step_cases hstep with ⟨hbusy, -⟩ | ⟨-, ⟨-, rfl⟩ | ⟨w, ws, -, ⟨i, hw, he⟩ | ⟨r, -, rfl⟩⟩⟩
  · simp [hs.not_busy] at hbusy
  · exact hs
  · exact sequencerInv_exec_word hw (hread ws) he
  · obtain ⟨q, hq⟩ := refuseReserved_eq r { s with input := ws }
    exact hq ▸ ⟨hs.fits, hs.waiting, hs.front⟩

/-- Settles O19: two iterations for each byte of the window are enough, and the loop stops at the first
read point. -/
theorem resumeEndsAtAReadPoint : Obligations.ResumeEndsAtAReadPoint :=
  ⟨⟨rfl, rfl, rfl, rfl, rfl, rfl, rfl⟩, waiting_iff,
    fun s => resumeFor_reaches_waiting (workLeft_lt s)⟩

end

section
/-! The four input words (40_operations.md R150 to R155). -/

namespace Sys2Proof.Machine

section
variable {s : State}

theorem step_of_not_busy (h : s.busy = false) : step s = stepRead s := if_neg (by simp [h])

theorem step_of_busy (h : s.busy = true) : step s = stepServe s := if_pos h

theorem refuse_eq (r : RefuseReason) (s : State) :
    refuse r s = { s with refused := some (s.refused.getD r) } := by
  unfold refuse
  cases s.refused <;> rfl

theorem whenRunning_running (f : State → State) (h : s.run = .running) : whenRunning f s = f s := by
  simp [whenRunning, h]

theorem whenRunning_unconfigured (f : State → State) (h : s.run = .unconfigured) :
    whenRunning f s = { s with refused := some (s.refused.getD .unconfigured) } := by
  rw [← refuse_eq]
  simp [whenRunning, h]

theorem whenRunning_stopped (f : State → State) (h : s.run = .stopped) :
    whenRunning f s = { s with refused := some (s.refused.getD .afterStop) } := by
  rw [← refuse_eq]
  simp [whenRunning, h]

/-- IDLE, STOP and BYTE each run a function of the state where a session is running (R150). -/
theorem exec_eq_whenRunning {i : Instr} (hi : i = .idle ∨ i = .stop ∨ ∃ b, i = .byte b) :
    ∃ f, ∀ s, exec i s = .next (whenRunning f s) := by
  rcases hi with rfl | rfl | ⟨b, rfl⟩
  · exact ⟨opIdle, fun _ => rfl⟩
  · exact ⟨opStop, fun _ => rfl⟩
  · exact ⟨opByte b, fun _ => rfl⟩

theorem exec_idle_running (h : s.run = .running) : exec .idle s = .next (opIdle s) :=
  congrArg _ (whenRunning_running opIdle h)

theorem exec_byte_running (b : Byte) (h : s.run = .running) :
    exec (.byte b) s = .next (opByte b s) :=
  congrArg _ (whenRunning_running (opByte b) h)

/-- BYTE resumes exactly when the byte completes the pending PEEK (R155). -/
theorem opByte_eq (b : Byte) (s : State) : opByte b s =
    if want s.mode s.site ≤ s.win.buf.length + 1 then resume (readByte b s) else readByte b s := by
  simp [opByte]

/-- IDLE closes a DCD transaction, marks end of stream and resumes (R154, R184). -/
theorem opIdle_eq (s : State) : opIdle s = resume { s with
    fr := { s.fr with inTxn := s.fr.inTxn && decide (s.mode ≠ .dcd) }
    win := ⟨s.win.buf, true⟩ } := by
  rw [opIdle, framerIdle_eq]

/-- With end of stream marked, the loop ends only where a POP has cleared the mark, which is on an empty
window (R191, R194). -/
theorem resume_win_of_eos (h : s.win.eos = true) : (resume s).win = ⟨[], false⟩ := by
  obtain ⟨n, hn⟩ := (seqWork_resume s).win
  have heos : (resume s).win.eos = false := ((waiting_iff _).mp (resume_waiting s)).2
  have hempty : s.win.buf.drop n = [] := by
    by_contra hne
    rw [hn, pop_win, if_neg hne, h] at heos
    cases heos
  rw [hn, pop_win, if_pos hempty, hempty]

theorem toSearch_skip_empty (hsite : s.site = .search) (hbuf : s.win.buf = []) :
    toSearch (skip s) = { s with win := ⟨[], false⟩ } := by
  simp [toSearch_skip hsite, Window.dropped, hbuf]

/-- At a session's first site an empty window is only cleared of its end of stream (R158 to R160,
R194). -/
theorem act_startSite_empty (hsite : s.site = startSite s.mode) (hbuf : s.win.buf = []) :
    act s = { s with win := ⟨[], false⟩ } := by
  cases hmode : s.mode <;> rw [hmode, startSite] at hsite
  case dcd => rw [act_feedsLink_nil (.inl hsite) hbuf, ← hmode, ← hsite]
  case gcr =>
    rw [act_gcrSearch hmode hsite, hbuf,
      actGcrSearch_miss (by simp [sigGcrAddr]) (by simp [sigGcrData]),
      toSearch_skip_empty hsite hbuf, hmode]
  case mfm =>
    rw [act_mfmSearch hmode hsite, hbuf,
      actMfmSearch_miss (by simp [sigMfmIndex]) (by simp [sigMfmAddr]) (by simp [sigMfmData]),
      toSearch_skip_empty hsite hbuf, hmode]

end

end Sys2Proof.Machine

open Sys2Proof Sys2Proof.Machine

/-- Settles O7: a step of a block that waits is a read, case by case. -/
theorem stepRunsTheDecodedWord : Obligations.StepRunsTheDecodedWord := by
  intro s hbusy
  rw [step_of_not_busy hbusy, stepRead]
  refine ⟨fun hin => by rw [hin], fun w ws i hin hw => ?_, fun w ws r hin hw => ?_⟩ <;>
    simp only [hin, hw]

/-- Settles O11: RESET writes its fields at once, the site by the mode. -/
theorem resetStartsASession : Obligations.ResetStartsASession :=
  ⟨fun m _ => by cases m <;> rfl, rfl⟩

/-- Settles O12: before the first RESET none of the three words reaches its operation. -/
theorem wordsBeforeResetAreRefused : Obligations.WordsBeforeResetAreRefused := by
  intro s i hrun hi
  obtain ⟨f, hf⟩ := exec_eq_whenRunning hi
  rw [hf, whenRunning_unconfigured f hrun]

/-- Settles O13: a running session runs `opStop`, and a stopped one refuses the three words. -/
theorem stopEndsTheSession : Obligations.StopEndsTheSession := by
  refine ⟨fun s hrun => congrArg _ (whenRunning_running opStop hrun), fun s i hrun hi => ?_⟩
  obtain ⟨f, hf⟩ := exec_eq_whenRunning hi
  rw [hf, whenRunning_stopped f hrun]

/-- Settles O14: the state from which the sequencer may resume is that of `readByte`. -/
theorem byteReadsAndMayResume : Obligations.ByteReadsAndMayResume := by
  intro s b hrun
  refine ⟨readByte b s, rfl, fun hshort => ?_, fun hfull => ?_⟩ <;>
    rw [exec_byte_running b hrun, opByte_eq]
  · rw [if_neg (not_le.mpr hshort)]
  · rw [if_pos hfull]

/-- Settles O15: IDLE marks end of stream, and the loop then drains the window. -/
theorem idleDrainsTheWindow : Obligations.IdleDrainsTheWindow := by
  intro s hrun
  have hidle := opIdle_eq s
  have hwork := seqWork_resume { s with
    fr := { s.fr with inTxn := s.fr.inTxn && decide (s.mode ≠ .dcd) }
    win := ⟨s.win.buf, true⟩ }
  refine ⟨_, exec_idle_running hrun, hidle, ?_⟩
  rw [hidle]
  exact ⟨resume_win_of_eos rfl, hwork.run.trans hrun, hwork.mode, hwork.fr, hwork.capture_eq,
    hwork.input, hwork.cfg, hwork.refused⟩

/-- Settles O16: the one iteration on the empty window only clears the mark that IDLE has set. -/
theorem idleOnAnIdleBusDoesNothing : Obligations.IdleOnAnIdleBusDoesNothing := by
  intro s hrun hwin hsite
  have hstart : s.site = startSite s.mode := by
    rcases hsite with ⟨hmode, hsite⟩ | ⟨hmode, hsite⟩
    · rw [hsite, hmode, startSite]
    · cases hm : s.mode <;> simp_all [startSite]
  have hact := act_startSite_empty (s := { s with
    fr := { s.fr with inTxn := s.fr.inTxn && decide (s.mode ≠ .dcd) }
    win := ⟨s.win.buf, true⟩ }) hstart (by rw [hwin])
  rw [exec_idle_running hrun, opIdle_eq, resume_eq_act (by rw [hact]; exact waiting_of_empty rfl), hact,
    ← hwin]

end

section
/-! A record instruction at the front of the window is the sequencer's own work (40_operations.md R156,
R158 to R160). -/

namespace Sys2Proof.Machine

/-- Which record instruction can stand at the front of the window: the site's own, on the bytes that
follow its signature. -/
inductive Fetched (s : State) : Instr → Prop where
  | gcrAddr (x : List Byte) (hsite : s.site = .gcrAddr)
      (hbytes : s.win.buf.map Entry.byte = sigGcrAddr ++ x) : Fetched s (.gcrAddressMark (x.take 7))
  | gcrData (x : List Byte) (hsite : s.site = .gcrData)
      (hbytes : s.win.buf.map Entry.byte = sigGcrData ++ x) : Fetched s (.gcrDataMark (x.take 706))
  | mfmIndex (x : List Byte) (hmode : s.mode = .mfm) (hsite : s.site = .search)
      (hbytes : s.win.buf.map Entry.byte = sigMfmIndex ++ x) : Fetched s .mfmIndexMark
  | mfmAddr (x : List Byte) (hsite : s.site = .mfmAddr)
      (hbytes : s.win.buf.map Entry.byte = sigMfmAddr ++ x) : Fetched s (.mfmAddressMark (x.take 6))
  | mfmData (x : List Byte) (hsite : s.site = .mfmData)
      (hbytes : s.win.buf.map Entry.byte = sigMfmData ++ x) : Fetched s (.mfmDataMark (x.take 514))
  | dcdFrame (x : List Byte) (n : Nat) (hlink : s.feedsLink)
      (hbytes : s.win.buf.map Entry.byte = syncByte :: x) : Fetched s (.dcdFrame (x.take n))
  | dcdReply (seed : Bits7) (x : List Byte) (n : Nat) (hlink : s.feedsLink)
      (hbytes : s.win.buf.map Entry.byte = syncByte :: x) : Fetched s (.dcdReply seed (x.take n))

theorem fetchRecord_eq_some {s : State} {i : Instr} (h : fetchRecord s = some i) :
    ∃ ctx rest, siteContext s = some ctx ∧
      decodeRecord ctx (s.win.buf.map Entry.byte) = some (i, rest) ∧ siteRuns s.site i = true := by
  unfold fetchRecord at h
  split at h
  · cases h
  · rename_i ctx hctx
    split at h
    · cases h
    · rename_i j rest hdec
      split_ifs at h with hruns
      cases h
      exact ⟨ctx, rest, hctx, hdec, hruns⟩

/-- The context of a site's records is its mode's, or the link's where the sequencer feeds it. -/
theorem siteContext_cases {s : State} {ctx : RecordContext} (h : siteContext s = some ctx) :
    (ctx = .gcr ∧ (s.site = .gcrAddr ∨ s.site = .gcrData)) ∨
    (ctx = .mfm ∧ ((s.site = .search ∧ s.mode = .mfm) ∨ s.site = .mfmAddr ∨ s.site = .mfmData)) ∨
    (s.feedsLink ∧ ∃ seed, ctx = .dcd seed) := by
  have hdcd (h : (linkSeed s).map RecordContext.dcd = some ctx) : ∃ seed, ctx = .dcd seed :=
    (Option.map_eq_some_iff.mp h).imp fun _ hx => hx.2.symm
  unfold siteContext at h
  split at h <;> rename_i hsite
  · split at h <;> rename_i hmode
    · cases h
    · cases h
      exact .inr (.inl ⟨rfl, .inl ⟨hsite, hmode⟩⟩)
    · exact .inr (.inr ⟨.inr ⟨hsite, hmode⟩, hdcd h⟩)
  · exact .inl ⟨(Option.some.inj h).symm, .inl hsite⟩
  · exact .inl ⟨(Option.some.inj h).symm, .inr hsite⟩
  · exact .inr (.inl ⟨(Option.some.inj h).symm, .inr (.inl hsite)⟩)
  · exact .inr (.inl ⟨(Option.some.inj h).symm, .inr (.inr hsite)⟩)
  · exact .inr (.inr ⟨.inl hsite, hdcd h⟩)

theorem fetched_of_fetchRecord {s : State} {i : Instr} (h : fetchRecord s = some i) :
    Fetched s i := by
  obtain ⟨ctx, rest, hctx, hdec, hruns⟩ := fetchRecord_eq_some h
  rcases siteContext_cases hctx with ⟨rfl, hsite⟩ | ⟨rfl, hsite⟩ | ⟨hlink, seed, rfl⟩
  · obtain ⟨x, ⟨hbytes, rfl, -⟩ | ⟨hbytes, rfl, -⟩⟩ := decodeGcrRecord_cases hdec
    · exact .gcrAddr x (hsite.resolve_right fun hs => by simp [hs, siteRuns] at hruns) hbytes
    · exact .gcrData x (hsite.resolve_left fun hs => by simp [hs, siteRuns] at hruns) hbytes
  · obtain ⟨x, ⟨hbytes, rfl, -⟩ | ⟨hbytes, rfl, -⟩ | ⟨hbytes, rfl, -⟩⟩ := decodeMfmRecord_cases hdec <;>
      rcases hsite with ⟨hsite, hmode⟩ | hsite | hsite <;> simp [hsite, siteRuns] at hruns
    · exact .mfmIndex x hmode hsite hbytes
    · exact .mfmAddr x hsite hbytes
    · exact .mfmData x hsite hbytes
  · obtain ⟨x, hbytes, ⟨rfl, -⟩ | ⟨n, -, rfl, -⟩⟩ := decodeDcdFrame_cases hdec
    · exact .dcdFrame x _ hlink hbytes
    · exact .dcdReply n x _ hlink hbytes

/-- A PEEK of `n` bytes reads a signature and the first bytes of what follows it. -/
theorem peek_signature {s : State} {sig x : List Byte} (n : Nat)
    (h : s.win.buf.map Entry.byte = sig ++ x) :
    (s.win.buf.take n).map Entry.byte = sig.take n ++ x.take (n - sig.length) := by
  rw [List.map_take, h, List.take_append]

/-- The iterations of site `Dcd` on the bytes at the front of the window are the feeds of those bytes
(R160). -/
theorem iterate_act_eq_feedBytes {bs rest : List Byte} {s : State} (hlink : s.feedsLink)
    (hbytes : s.win.buf.map Entry.byte = bs ++ rest) : act^[bs.length] s = feedBytes bs s := by
  induction bs generalizing s with
  | nil => rfl
  | cons b bs ih =>
    have hnext : (actDcdByte b s).win.buf.map Entry.byte = bs ++ rest := by
      rw [actDcdByte_buf, List.map_drop, hbytes]
      rfl
    rw [List.length_cons, Function.iterate_succ_apply, act_feedsLink_cons hlink hbytes,
      feedBytes_cons]
    exact ih (.inl rfl) hnext

/-- A frame at the front of the window takes one iteration for each of its bytes. -/
theorem iterate_act_frame {x : List Byte} (n : Nat) {s : State} (hlink : s.feedsLink)
    (hbytes : s.win.buf.map Entry.byte = syncByte :: x) :
    act^[1 + (x.take n).length] s = feedBytes (syncByte :: x.take n) s := by
  have hsplit : s.win.buf.map Entry.byte = (syncByte :: x.take n) ++ x.drop n := by
    rw [hbytes, List.cons_append, List.take_append_drop]
  rw [Nat.add_comm]
  exact iterate_act_eq_feedBytes hlink hsplit

/-- A record at the front of the window is evaluated by the site's own iterations. -/
theorem Fetched.exec_eq {s : State} {i : Instr} (h : Fetched s i) :
    exec i s = .next (act^[recordWork i] s) := by
  cases h with
  | gcrAddr x hsite hbytes =>
    show _ = Host.Outcome.next (act s)
    rw [act_gcrAddr hsite, peek_signature 10 hbytes]
    rfl
  | gcrData x hsite hbytes =>
    show _ = Host.Outcome.next (act s)
    rw [act_gcrData hsite, peek_signature 709 hbytes]
    rfl
  | mfmIndex x hmode hsite hbytes =>
    show _ = Host.Outcome.next (act s)
    rw [act_mfmSearch hmode hsite, peek_signature 4 hbytes]
    rfl
  | mfmAddr x hsite hbytes =>
    show _ = Host.Outcome.next (act s)
    rw [act_mfmAddr hsite, peek_signature 10 hbytes]
    rfl
  | mfmData x hsite hbytes =>
    show _ = Host.Outcome.next (act s)
    rw [act_mfmData hsite, peek_signature 518 hbytes]
    rfl
  | dcdFrame x n hlink hbytes => exact congrArg _ (iterate_act_frame n hlink hbytes).symm
  | dcdReply seed x n hlink hbytes => exact congrArg _ (iterate_act_frame n hlink hbytes).symm

end Sys2Proof.Machine

open Sys2Proof Sys2Proof.Machine

/-- Settles O8: what the step fetches is what the site's iterations evaluate. -/
theorem recordInstructionIsSequencerWork : Obligations.RecordInstructionIsSequencerWork := by
  refine ⟨fun s hbusy => ?_, fun s i h => (fetched_of_fetchRecord h).exec_eq⟩
  rw [step_of_busy hbusy, stepServe]
  exact ⟨fun i h => by rw [h], fun h => by rw [h]⟩

end

section
/-! The framer's tag in each mode, and POP (41_framer_window.md R180 to R185, R193, R194). -/

namespace Sys2Proof.Machine

section
variable {cfg : Config} {fr : Framer} {b : Byte}

theorem tagByte_dcd_of_opens (h : fr.inTxn = false) : tagByte cfg .dcd fr b =
    (⟨fr.nextTxn, none, 0⟩, advanceOff cfg (openTxn cfg fr)) := by
  simp only [tagByte, tagDcd, h, Bool.false_eq_true, if_false]
  rfl

theorem tagByte_dcd_of_continues (h : fr.inTxn = true) : tagByte cfg .dcd fr b =
    (⟨fr.txn, none, fr.off⟩, advanceOff cfg fr) := by
  simp only [tagByte, tagDcd, h, if_true]

theorem tagByte_gcr_of_opens (h : fr.inTxn = false ∨ bit7 b ≠ fr.lastDir) : tagByte cfg .gcr fr b =
    (⟨fr.nextTxn, some (bit7 b), 0⟩, advanceOff cfg { openTxn cfg fr with lastDir := bit7 b }) := by
  have hopens : ¬(fr.inTxn = true ∧ bit7 b = fr.lastDir) := by
    rintro ⟨hin, hdir⟩
    exact h.elim (by simp [hin]) (· hdir)
  simp only [tagByte, tagGcr, if_neg hopens]
  rfl

theorem tagByte_gcr_of_continues (h : fr.inTxn = true ∧ bit7 b = fr.lastDir) : tagByte cfg .gcr fr b =
    (⟨fr.txn, some (bit7 b), fr.off⟩, advanceOff cfg fr) := by
  simp only [tagByte, tagGcr, if_pos h]

theorem tagByte_mfm : tagByte cfg .mfm fr b = (⟨0, none, fr.off⟩, advanceOff cfg fr) := rfl

end

end Sys2Proof.Machine

open Sys2Proof Sys2Proof.Machine

/-- Settles O18: in DCD and GCR mode a byte opens a transaction or continues one; MFM mode only counts. -/
theorem framerTagsByMode : Obligations.FramerTagsByMode := fun _ _ _ =>
  ⟨tagByte_dcd_of_opens, tagByte_dcd_of_continues, tagByte_gcr_of_opens, tagByte_gcr_of_continues,
    tagByte_mfm⟩

/-- Settles O20: dropping `n` entries empties exactly the windows of at most `n` entries. -/
theorem popDropsAndClearsEos : Obligations.PopDropsAndClearsEos := pop_eq_dropped

end

section
/-! The arbitration of the link: what follows each pair of feed results, as one equation of the whole
state (42_dcd.md R230 to R234). -/

namespace Sys2Proof.Machine

theorem FeedResult.isValid_eq_false_iff (r : FeedResult) :
    r.isValid = false ↔ ∀ pl ig sp, r ≠ .valid pl ig sp := by
  simp [← Bool.not_eq_true]

theorem FeedResult.lost_iff (r : FeedResult) : r.lost = true ↔ r = .gaveUp ∨ r = .invalid := by
  cases r <;> simp [FeedResult.lost]

theorem emitRecord_eq (k : Kind) (p : Option Prov) (g : Geom) (d : List Byte) (s : State) :
    emitRecord k p g d s = { s with
      trace := s.trace ++
        [.record (mkRecord k p g d), .event (.recordAccepted p k d.length g)] } := by
  simp [emitRecord, emitEvent, emit]

/-- Both decoders' feeds, H2P's events first, and then the arbitration (R230). -/
theorem linkFeed_eq (b : Byte) (prov : Option Prov) (s : State) : linkFeed b prov s =
    arbitrate (dcdFeed s.cfg .h2p s.h2p b prov) (dcdFeed s.cfg .p2h s.p2h b prov) prov { s with
      h2p := (dcdFeed s.cfg .h2p s.h2p b prov).dec
      p2h := (dcdFeed s.cfg .p2h s.p2h b prov).dec
      trace := s.trace ++ ((dcdFeed s.cfg .h2p s.h2p b prov).evs ++
        (dcdFeed s.cfg .p2h s.p2h b prov).evs).map .event } := rfl

section
variable {h p : FeedOut} {pl : List Byte} {ig : Option Bits7} {sp : Option Prov}

/-- A valid H2P frame is delivered and seeds P2H, whatever P2H's feed gave (R231, R232). -/
theorem arbitrate_h2p (hh : h.res = .valid pl ig sp) (prov : Option Prov) (s : State) :
    arbitrate h p prov s = { s with
      h2p := dcdReset none
      p2h := dcdReset ig
      trace := s.trace ++ [.record (mkRecord .dcdH2P sp .none pl),
        .event (.recordAccepted sp .dcdH2P pl.length .none)] } := by
  rw [arbitrate, hh]
  simp only [emitRecord_eq]

/-- A valid P2H frame is delivered and seeds H2P where H2P's feed is not valid (R231, R232). -/
theorem arbitrate_p2h (hh : h.res.isValid = false) (hp : p.res = .valid pl ig sp)
    (prov : Option Prov) (s : State) :
    arbitrate h p prov s = { s with
      h2p := dcdReset ig
      p2h := dcdReset none
      trace := s.trace ++ [.record (mkRecord .dcdP2H sp .none pl),
        .event (.recordAccepted sp .dcdP2H pl.length .none)] } := by
  rw [arbitrate, hp]
  cases hres : h.res with
  | valid => simp [hres, FeedResult.isValid] at hh
  | hopeful | gaveUp | invalid => simp only [emitRecord_eq]

/-- Where neither decoder is hopeful the link is desynchronized (R233). -/
theorem arbitrate_desync (hh : h.res.lost = true) (hp : p.res.lost = true) (prov : Option Prov)
    (s : State) :
    arbitrate h p prov s = { s with
      h2p := dcdReset none
      p2h := dcdReset none
      trace := s.trace ++ [.event (.desync prov)] } := by
  rcases (FeedResult.lost_iff _).mp hh with hh | hh <;>
    rcases (FeedResult.lost_iff _).mp hp with hp | hp <;>
    rw [arbitrate, hh, hp] <;> rfl

end

end Sys2Proof.Machine

open Sys2Proof Sys2Proof.Machine

/-- Settles O42: the feeds' events come first, and each pair of results has its own equation. -/
theorem dcdLinkArbitration : Obligations.DcdLinkArbitration := by
  rintro s b prov h p _ rfl rfl rfl
  rw [linkFeed_eq]
  refine ⟨fun pl ig sp hh => ?_, fun hh pl ig sp hp => ?_, fun hh hp => ?_, fun hquiet => ?_⟩
  · exact arbitrate_h2p hh prov _
  · exact arbitrate_p2h ((FeedResult.isValid_eq_false_iff _).mpr hh) hp prov _
  · exact arbitrate_desync ((FeedResult.lost_iff _).mpr hh) ((FeedResult.lost_iff _).mpr hp) prov _
  · rcases hquiet with ⟨hope, hother⟩ | ⟨hope, hother⟩
    · exact arbitrate_quiet (by rw [hope]; rfl) ((FeedResult.isValid_eq_false_iff _).mpr hother)
        (.inl hope) prov _
    · exact arbitrate_quiet ((FeedResult.isValid_eq_false_iff _).mpr hother) (by rw [hope]; rfl)
        (.inr hope) prov _

end

section
/-! A decoder's feed, phase by phase, with the fields of the byte written out (42_dcd.md R212 to R223). -/

namespace Sys2Proof.Machine

/-- The first feed after a reset puts Fresh before the events of a later one (R213). -/
theorem dcdFeed_fresh (cfg : Config) (dir : LinkDir) {d : DcdDecoder} (hfresh : d.fresh = true)
    (b : Byte) (prov : Option Prov) : dcdFeed cfg dir d b prov =
      { dcdFeed cfg dir { d with fresh := false } b prov with
        evs := .dcdSync dir .fresh prov ::
          (dcdFeed cfg dir { d with fresh := false } b prov).evs } := by
  rw [dcdFeed, hfresh]
  rfl

/-- The payload bytes of a group, with R220's slot order written out. -/
theorem assembleGroup_eq (cfg : Config) (dir : LinkDir) (body : List Bits7) (b : Byte) :
    assembleGroup cfg dir body b = body.mapIdx (fun k lo => BitVec.ofBool
      (b.getLsbD (if dir = .p2h ∧ cfg.p2hOrder = .msbFirst then 6 - k else k)) ++ lo) := by
  simp only [assembleGroup, carrierBit_eq, joinBit7]

theorem byteSum_eq_ofNat (bs : List Byte) : byteSum bs = BitVec.ofNat 8 (bs.map BitVec.toNat).sum :=
  BitVec.eq_of_toNat_eq (by rw [byteSum_toNat, BitVec.toNat_ofNat])

/-- `COMPLETE` of a valid payload leaves the decoder for the link to reset (R223). -/
theorem complete_valid {dir : LinkDir} {d : DcdDecoder} (h : validPayload dir d.payload = true) :
    complete dir d = ⟨d, .valid d.payload d.inGroups d.syncProv, []⟩ := if_pos h

/-- On an invalid payload `COMPLETE` gives up, and reports the plain sum of its bytes (R223, R225). -/
theorem complete_invalid {dir : LinkDir} {d : DcdDecoder} (h : validPayload dir d.payload = false) :
    complete dir d = ⟨{ d with phase := .gaveUp }, .invalid, [.dcdFrameInvalid dir
      (BitVec.ofNat 8 (d.payload.map BitVec.toNat).sum) d.payload.head? d.syncProv]⟩ := by
  rw [← byteSum_eq_ofNat]
  exact if_neg (by simp [h])

section
variable {cfg : Config} {dir : LinkDir} {d : DcdDecoder} (hfresh : d.fresh = false)
include hfresh

/-- A decoder that seeks a sync byte feeds it to FEED_SEEK (R212). -/
theorem dcdFeed_seekingSync (hphase : d.phase = .seekingSync) (b : Byte) (prov : Option Prov) :
    dcdFeed cfg dir d b prov = feedSeek dir d b prov := by
  rw [dcdFeed_of_not_fresh hfresh, feedPhase, hphase]

theorem dcdFeed_readingHeader0 (hphase : d.phase = .readingHeader0) (b : Byte) (prov : Option Prov) :
    dcdFeed cfg dir d b prov =
      ⟨{ d with outGroups := low7 b, phase := .readingHeader1 }, .hopeful, []⟩ := by
  rw [dcdFeed_of_not_fresh hfresh, feedPhase, hphase]
  rfl

/-- A frame of no groups completes at once (R218). -/
theorem dcdFeed_header1_noGroups (hphase : d.phase = .readingHeader1) (hout : d.outGroups = 0)
    (b : Byte) (prov : Option Prov) :
    dcdFeed cfg dir d b prov = complete dir { d with inGroups := some (low7 b) } := by
  rw [dcdFeed_of_not_fresh hfresh, feedPhase, hphase]
  simp [feedHdr1, startPayload, hout, hphase]

theorem dcdFeed_gaveUp (hphase : d.phase = .gaveUp) (b : Byte) (prov : Option Prov) :
    dcdFeed cfg dir d b prov = ⟨d, .gaveUp, []⟩ := by
  rw [dcdFeed_of_not_fresh hfresh, feedPhase, hphase]

end

theorem feedSeek_other (dir : LinkDir) (d : DcdDecoder) {b : Byte} (hb : b ≠ syncByte)
    (prov : Option Prov) : feedSeek dir d b prov = ⟨d, .hopeful, []⟩ := if_pos hb

theorem feedSeek_unseeded (dir : LinkDir) {d : DcdDecoder} (hseed : d.seed = none)
    (prov : Option Prov) : feedSeek dir d syncByte prov =
      ⟨{ d with syncProv := prov, phase := .readingHeader0 }, .hopeful,
        [.dcdSync dir .acquired prov]⟩ := by
  simp [feedSeek, hseed]

theorem feedSeek_seeded (dir : LinkDir) {d : DcdDecoder} {n : Bits7} (hseed : d.seed = some n)
    (prov : Option Prov) : feedSeek dir d syncByte prov =
      ⟨{ d with syncProv := prov, outGroups := n, inGroups := none, phase := .readingPayload },
        .hopeful, [.dcdSync dir .acquired prov]⟩ := by
  simp [feedSeek, hseed]

end Sys2Proof.Machine

open Sys2Proof Sys2Proof.Machine

/-- Settles O36: only `fresh` distinguishes the first feed, and FEED_SEEK reads the byte and the seed. -/
theorem dcdFreshAndSync : Obligations.DcdFreshAndSync := by
  refine ⟨fun cfg dir d b prov hfresh => dcdFeed_fresh cfg dir hfresh b prov,
    fun cfg dir d b prov hfresh hphase => ?_⟩
  rw [dcdFeed_seekingSync hfresh hphase]
  refine ⟨fun hb => ?_, fun hb hseed => ?_, fun n hb hseed => ?_⟩
  · exact feedSeek_other dir d hb prov
  · exact hb ▸ feedSeek_unseeded dir hseed prov
  · exact hb ▸ feedSeek_seeded dir hseed prov

/-- Settles O37: a frame of no groups completes with the empty payload, which is invalid. -/
theorem dcdHeaderIsRead : Obligations.DcdHeaderIsRead := by
  intro cfg dir d b prov hfresh
  refine ⟨fun hphase => ?_, fun hphase hout => ?_, fun hphase hout hpayload => ?_⟩
  · exact dcdFeed_readingHeader0 hfresh hphase b prov
  · exact dcdFeed_header1 cfg dir hfresh hphase hout b prov
  · rw [dcdFeed_header1_noGroups hfresh hphase hout,
      complete_invalid (by rw [hpayload]; rfl), hpayload]
    rfl

/-- Settles O38: the carrier's group joins the payload, whose length decides whether the frame
completes. -/
theorem dcdGroupsAreAssembled : Obligations.DcdGroupsAreAssembled := by
  intro cfg dir d b prov p hfresh hp
  rw [← assembleGroup_eq] at hp
  have hlen : p.length = d.payload.length + d.body.length := by simp [hp]
  refine ⟨fun hphase hbody => ?_, fun hphase hbody => ?_, fun hphase hmore => ?_,
    fun hphase hlast hv => ?_, fun hphase hlast hv => ?_⟩
  · rw [dcdFeed_readingPayload hfresh hphase, if_neg (by omega), ← hphase]
    rfl
  · rw [dcdFeed_readingPayload hfresh hphase, if_pos (by omega)]
    rfl
  · rw [dcdFeed_carrier hfresh hphase (hlen ▸ hmore), ← hp]
    rfl
  · rw [dcdFeed_lastCarrier hfresh hphase (hlen ▸ hlast), ← hp, complete_valid hv]
  · rw [dcdFeed_lastCarrier hfresh hphase (hlen ▸ hlast), ← hp, complete_invalid hv]

/-- Settles O39: the sync byte resumes, and a decoder that has given up is left as it is. -/
theorem dcdHoldoffResumesOrGivesUp : Obligations.DcdHoldoffResumesOrGivesUp := by
  intro cfg dir d b prov hfresh
  refine ⟨fun hphase hb => ?_, fun hphase hb => ?_, fun hphase => ?_⟩
  · exact hb ▸ dcdFeed_resume hfresh hphase prov
  · exact dcdFeed_noResume hfresh hphase hb prov
  · exact dcdFeed_gaveUp hfresh hphase b prov

end

section
/-! The operand forms of the GCR decoder in plain bits and plain arithmetic: the nibble lookup and the
track and side layout (43_gcr.md R262, R263, R270), the denibblizer (R277, R278) and the rotating
checksum (R281 to R284). -/

namespace Sys2Proof.Machine

/-! ## The lookup and the layout -/

/-- The mask leaves the bits that index the table (R263). -/
theorem low7_and_7F (b : Byte) : low7 (b &&& 0x7F) = low7 b := by
  revert b
  decide

/-- The default table has an entry for each of the 64 values, and INVALID in the others (R262). -/
theorem count_invalid_defaultNibTable :
    ((List.range 128).filter (fun i =>
      (defaultNibTable.getD (low7 (BitVec.ofNat 8 i)).toNat none).isNone)).length = 64 := by
  decide

/-- The bits of a track are those of its layout, bit 0 first (R270). -/
theorem getLsbD_gcrTrack (cfg : Config) (n0 n2 : Nibble) (i : Nat) :
    (gcrTrack cfg n0 n2).getLsbD i =
      (decide (i < 7) && (cfg.trackSide.track.map (nibbleBit n0 n2)).getD i false) := by
  rw [gcrTrack, BitVec.getLsbD_ofNat, testBit_bitsToNat]

theorem gcrTrack_default {cfg : Config} (h : cfg.trackSide = defaultTrackSide) (n0 n2 : Nibble) :
    gcrTrack cfg n0 n2 = n2.extractLsb' 0 1 ++ n0 := by
  apply BitVec.eq_of_getLsbD_eq
  intro i hi
  rw [getLsbD_gcrTrack, h, BitVec.getLsbD_append]
  interval_cases i <;> simp [defaultTrackSide, nibbleBit]

theorem gcrSide_default {cfg : Config} (h : cfg.trackSide = defaultTrackSide) (n0 n2 : Nibble) :
    gcrSide cfg n0 n2 = n2.extractLsb' 5 1 := by
  rw [gcrSide, h]
  apply BitVec.eq_of_getLsbD_eq
  intro i hi
  simp [defaultTrackSide, nibbleBit, Nat.lt_one_iff.mp hi]

/-! ## The denibblizer -/

/-- Output `k` of a run is the hi value's `k`-th pair of bits above the low value (R277). -/
theorem denibOut_eq_append {k : Nat} (hk1 : 1 ≤ k) (hk3 : k ≤ 3) (hi v : Nibble) :
    denibOut hi v k = hi.extractLsb' (6 - 2 * k) 2 ++ v := by
  have hlow : low6 (hi.extractLsb' (6 - 2 * k) 2 ++ v) = v := BitVec.extractLsb'_append_eq_right
  have htop : top2 (hi.extractLsb' (6 - 2 * k) 2 ++ v) = hi.extractLsb' (6 - 2 * k) 2 :=
    BitVec.extractLsb'_append_eq_left
  have hout := denibOut_low6 hk1 hk3 htop.symm
  rwa [hlow] at hout

/-- The hi bits that a run has not used after 0, 1 and 2 outputs (R278). -/
theorem denibPending_eq (hi : Nibble) :
    denibPending hi 0 = (if hi = 0 then none else some (hi, 0)) ∧
    denibPending hi 1 = (if hi &&& 0x0F = 0 then none else some (hi &&& 0x0F, 1)) ∧
    denibPending hi 2 = (if hi &&& 0x03 = 0 then none else some (hi &&& 0x03, 2)) := by
  refine ⟨?_, rfl, rfl⟩
  have hall : hi &&& ((1#6 <<< (6 - 2 * 0)) - 1) = hi := BitVec.and_allOnes
  rw [denibPending, hall]

/-- The four values of full runs, one run after another. -/
def runValues (runs : List (Nibble × Nibble × Nibble × Nibble)) : List Nibble :=
  runs.flatMap (fun r => [r.1, r.2.1, r.2.2.1, r.2.2.2])

/-- Full runs have no error: what follows them decides (R278). -/
theorem denib_runValues_append_snd (runs : List (Nibble × Nibble × Nibble × Nibble))
    (v : List Nibble) : (denib (runValues runs ++ v)).2 = (denib v).2 := by
  induction runs with
  | nil => rfl
  | cons r runs ih => exact ih

/-! ## The rotating checksum -/

theorem rol8_eq_rotateLeft (x : Byte) : rol8 x = x.rotateLeft 1 := rfl

theorem accAdd_mod256 (acc x : Byte) (cy : Bool) : (accAdd .mod256 acc x cy).1 = acc + x := by
  apply BitVec.eq_of_toNat_eq
  simp [accAdd]

/-- The 9-bit sum of a chained addition is the plain sum: it does not overflow (R284). -/
theorem toNat_chainedSum (acc x : Byte) (cy : Bool) :
    (acc.setWidth 9 + x.setWidth 9 + (BitVec.ofBool cy).setWidth 9).toNat =
      acc.toNat + x.toNat + cy.toNat := by
  have := cy.toNat_le
  simp
  omega

theorem accAdd_chained (acc x : Byte) (cy : Bool) :
    (accAdd .chained acc x cy).1 = BitVec.ofNat 8 (acc.toNat + x.toNat + cy.toNat) := by
  apply BitVec.eq_of_toNat_eq
  rw [accAdd, BitVec.toNat_setWidth, toNat_chainedSum, BitVec.toNat_ofNat]

/-- The top bit of a word of `w + 1` bits as a number. -/
theorem toNat_msb {w : Nat} (x : BitVec (w + 1)) : x.msb.toNat = x.toNat / 2 ^ w := by
  have hbit : x.msb = x.toNat.testBit w := BitVec.msb_eq_getLsbD_last x
  have hlt : x.toNat / 2 ^ w < 2 := Nat.div_lt_of_lt_mul (by simpa [Nat.pow_succ] using x.isLt)
  rw [hbit, Nat.toNat_testBit, Nat.mod_eq_of_lt hlt]

theorem accAdd_chained_carry (acc x : Byte) (cy : Bool) :
    (accAdd .chained acc x cy).2.toNat = (acc.toNat + x.toNat + cy.toNat) / 256 := by
  rw [accAdd, toNat_msb, toNat_chainedSum]
  norm_num

end Sys2Proof.Machine

open Sys2Proof Sys2Proof.Machine

/-- Settles O24: the lookup reads the low 7 bits, and the default layout's track and side are bits of
n0 and n2. -/
theorem defaultGcrParameters : Obligations.DefaultGcrParameters := by
  refine ⟨fun cfg b => ⟨rfl, ?_⟩, fun cfg htable => ⟨lookup_symbolOf htable, ?_, ?_, ?_⟩,
    fun cfg n0 n2 hlayout => ⟨gcrTrack_default hlayout n0 n2, gcrSide_default hlayout n0 n2⟩⟩
  · rw [lookup, low7_and_7F, lookup]
  · simp only [lookup, htable]
    exact count_invalid_defaultNibTable
  · rw [lookup, htable]
    decide
  · rw [lookup, htable]
    decide

/-- Settles O25: a run's outputs are pairs of its hi value's bits above its low values, and only the
last run can be short. -/
theorem denibRunsAndErrors : Obligations.DenibRunsAndErrors := by
  refine ⟨fun hi a b c rest => ?_, fun runs hi a b => ?_, fun v hv => ?_, fun v hv => ?_⟩
  · simp only [← denibOut_eq_append (k := 1) (by omega) (by omega) hi a,
      ← denibOut_eq_append (k := 2) (by omega) (by omega) hi b,
      ← denibOut_eq_append (k := 3) (by omega) (by omega) hi c]
    exact ⟨rfl, rfl, rfl, rfl, rfl⟩
  · obtain ⟨h0, h1, h2⟩ := denibPending_eq hi
    have hfull := denib_runValues_append_snd runs []
    rw [List.append_nil] at hfull
    exact ⟨hfull, (denib_runValues_append_snd runs [hi]).trans h0,
      (denib_runValues_append_snd runs [hi, a]).trans h1,
      (denib_runValues_append_snd runs [hi, a, b]).trans h2⟩
  · have := length_denib v
    omega
  · obtain ⟨hi, a, b, c, rfl⟩ := List.length_eq_four.mp hv
    exact ⟨rfl, rfl⟩

/-- Settles O28: each addition of a group in plain arithmetic, its carry the one of the step before. -/
theorem cksumGroupArithmetic : Obligations.CksumGroupArithmetic := by
  refine ⟨fun _ _ => rfl, fun _ _ => rfl, fun a b c x y => ?_, fun a b c x y => ?_⟩
  · refine ⟨?_, ?_, fun z rest => ?_⟩ <;>
      simp only [cksumFrom, withValue_eq, rol8_eq_rotateLeft, accAdd_mod256]
  · refine ⟨?_, ?_, fun z rest => ?_⟩ <;>
      simp only [cksumFrom, withValue_eq, rol8_eq_rotateLeft, accAdd_chained, accAdd_chained_carry,
        toNat_msb, Nat.reducePow]

end

section
/-! The two evaluations of the GCR sector decoder, check by check in the order of the spec
(43_gcr.md R266 to R272, R275, R276, R285 to R288). -/

namespace Sys2Proof.Machine

/-! ## What the checks read -/

/-- A failed candidate at a record site leaves one event and one byte less (R162, R362). -/
theorem toSearch_failCandidate (e : Event) (s : State) :
    toSearch (failCandidate e s) = afterFailure e s := by
  simp only [toSearch, failCandidate, pop, emitEvent, emit, afterFailure, List.drop_one]

theorem invalidSymbols_eq_filter_isNone (cfg : Config) (r : List Byte) :
    invalidSymbols cfg r = r.filter (fun c => (lookup cfg c).isNone) := by
  simp only [invalidSymbols, ← Option.isNone_iff_eq_none, Bool.decide_eq_true]

/-- Symbols that are looked up to values are valid, and the values are theirs (R266, R276). -/
theorem invalidSymbols_of_map_lookup {cfg : Config} {r : List Byte} {v : List Nibble}
    (h : r.map (lookup cfg) = v.map some) : invalidSymbols cfg r = [] := by
  rw [invalidSymbols_eq_nil_iff]
  intro b hb
  have hmem : lookup cfg b ∈ v.map some := h ▸ List.mem_map_of_mem hb
  obtain ⟨n, -, hn⟩ := List.mem_map.mp hmem
  exact ⟨n, hn.symm⟩

theorem nibbles_of_map_lookup {cfg : Config} {r : List Byte} {v : List Nibble}
    (h : r.map (lookup cfg) = v.map some) : nibbles cfg r = v := by
  have hid := congrArg (List.filterMap id) h
  simpa [nibbles, List.filterMap_map] using hid

/-! ## The address mark -/

/-- The five symbols of a complete address mark stand between its signature and its trailer (R266). -/
theorem slice_gcrAddr (c0 c1 c2 c3 c4 x y : Byte) :
    slice (sigGcrAddr ++ [c0, c1, c2, c3, c4, x, y]) 3 5 = [c0, c1, c2, c3, c4] := rfl

theorem map_lookup_gcrAddr {cfg : Config} {c0 c1 c2 c3 c4 : Byte} {n0 n1 n2 n3 n4 : Nibble}
    (h0 : lookup cfg c0 = some n0) (h1 : lookup cfg c1 = some n1) (h2 : lookup cfg c2 = some n2)
    (h3 : lookup cfg c3 = some n3) (h4 : lookup cfg c4 = some n4) (x y : Byte) :
    (slice (sigGcrAddr ++ [c0, c1, c2, c3, c4, x, y]) 3 5).map (lookup cfg) =
      [n0, n1, n2, n3, n4].map some := by
  simp [slice_gcrAddr, h0, h1, h2, h3, h4]

section
variable {p : Option Prov} {s : State}

theorem gcrAddrEval_truncated {r : List Byte} (h : r.length < lenGcrAddr) :
    gcrAddrEval p r s = failCandidate (.truncated p .gcrAddr r.length) s := if_pos h

variable {r : List Byte} (hlen : r.length = lenGcrAddr)
include hlen

theorem gcrAddrEval_invalidSymbol (h : invalidSymbols s.cfg (slice r 3 5) ≠ []) :
    gcrAddrEval p r s =
      failCandidate (.invalidSymbol p .gcrAddr (invalidSymbols s.cfg (slice r 3 5))) s := by
  rw [gcrAddrEval, if_neg hlen.not_lt]
  exact if_pos h

variable {n0 n1 n2 n3 n4 : Nibble}
  (hsyms : (slice r 3 5).map (lookup s.cfg) = [n0, n1, n2, n3, n4].map some)
include hsyms

/-- Of valid symbols the last check is the checksum's (R266). -/
theorem gcrAddrEval_validSymbols : gcrAddrEval p r s =
    if n0 ^^^ n1 ^^^ n2 ^^^ n3 ≠ n4 then
      failCandidate (.checksumMismatch p .gcrAddr (.nibble (n0 ^^^ n1 ^^^ n2 ^^^ n3)) (.nibble n4)) s
    else
      pop 10 (emitEvent (.gcrAddressMark p (gcrTrack s.cfg n0 n2) n1 (gcrSide s.cfg n0 n2) n3)
        { s with ggeom := some ⟨gcrTrack s.cfg n0 n2, n1, gcrSide s.cfg n0 n2, n3⟩ }) := by
  rw [gcrAddrEval, if_neg hlen.not_lt]
  simp only [invalidSymbols_of_map_lookup hsyms, nibbles_of_map_lookup hsyms]
  rfl

end

/-! ## The data mark -/

theorem length_gcrData {body : List Byte} (h : body.length = 706) :
    (sigGcrData ++ body).length = lenGcrData := by
  rw [List.length_append, h]
  rfl

theorem byteAt_gcrData (body : List Byte) : byteAt (sigGcrData ++ body) 3 = byteAt body 0 := rfl

theorem slice_gcrData (body : List Byte) :
    slice (sigGcrData ++ body) 4 703 = slice body 1 703 := rfl

/-- The first 699 values of a data mark decode to 524 bytes (R277, R281). -/
theorem length_decoded_of_values {v : List Nibble} (hv : v.length = 703) {m : GcrAdd} {d : List Byte}
    {a : Acc} (h : cksum m (denib (v.take 699)).1 = (d, a)) : d.length = 524 := by
  have hdecoded : d.length = (denib (v.take 699)).1.length := by
    simpa [h] using length_cksum m (denib (v.take 699)).1
  have hvalues := length_denib (v.take 699)
  rw [List.length_take, hv] at hvalues
  omega

section
variable {p : Option Prov} {s : State}

theorem gcrDataEval_truncated {r : List Byte} (h : r.length < lenGcrData) :
    gcrDataEval p r s = failCandidate (.truncated p .gcrData r.length) s := if_pos h

variable {r : List Byte} (hlen : r.length = lenGcrData)
include hlen

theorem gcrDataEval_invalidSector (h : lookup s.cfg (byteAt r 3) = none) :
    gcrDataEval p r s = failCandidate (.invalidSymbol p .gcrData [byteAt r 3]) s := by
  rw [gcrDataEval, if_neg hlen.not_lt, h]

variable {sec : Nibble} (hsec : lookup s.cfg (byteAt r 3) = some sec)
include hsec

theorem gcrDataEval_invalidSymbol (h : invalidSymbols s.cfg (slice r 4 703) ≠ []) :
    gcrDataEval p r s =
      failCandidate (.invalidSymbol p .gcrData (invalidSymbols s.cfg (slice r 4 703))) s := by
  rw [gcrDataEval, if_neg hlen.not_lt, hsec]
  exact if_pos h

variable {v : List Nibble} (hsyms : (slice r 4 703).map (lookup s.cfg) = v.map some)
include hsyms

theorem gcrDataEval_denibError {pending : Nibble} {j : Nat}
    (h : (denib (v.take 699)).2 = some (pending, j)) :
    gcrDataEval p r s = failCandidate (.denibError p pending j) s := by
  rw [gcrDataEval, if_neg hlen.not_lt, hsec]
  simp only [invalidSymbols_of_map_lookup hsyms, nibbles_of_map_lookup hsyms, h]
  rfl

variable (hdenib : (denib (v.take 699)).2 = none) {d : List Byte} {a : Acc}
  (hcksum : cksum s.cfg.gcrAdd (denib (v.take 699)).1 = (d, a))
  {t0 t1 t2 : Byte} (htarget : (denib (v.drop 699)).1 = [t0, t1, t2])
include hdenib hcksum htarget

/-- Of a payload that denibblizes the last two checks are the checksum's and the sector's (R286). -/
theorem gcrDataEval_denibblized : gcrDataEval p r s =
    if (a.a, a.b, a.c) ≠ (t0, t1, t2) then
      failCandidate (.checksumMismatch p .gcrData (.triple a.a a.b a.c) (.triple t0 t1 t2)) s
    else if s.ggeom.map GcrGeom.sector ≠ some sec then
      failCandidate (.sectorMismatch p sec (s.ggeom.map GcrGeom.sector)) s
    else pop 709 (emitRecord .gcrData p (gcrGeom s.ggeom) d s) := by
  have hiff : [a.a, a.b, a.c] ≠ [t0, t1, t2] ↔ (a.a, a.b, a.c) ≠ (t0, t1, t2) := by simp
  rw [gcrDataEval, if_neg hlen.not_lt, hsec]
  simp only [invalidSymbols_of_map_lookup hsyms, nibbles_of_map_lookup hsyms, hdenib, hcksum, htarget,
    hiff]
  rfl

end

/-! ## The record instructions -/

section
variable {s : State} {body : List Byte}

/-- The instruction is the evaluation at the front of the window, then the return to `Search` (R266). -/
theorem exec_gcrAddressMark_eq : exec (.gcrAddressMark body) s =
    .next (toSearch (gcrAddrEval s.frontProv (sigGcrAddr ++ body) s)) := rfl

theorem exec_gcrDataMark_eq : exec (.gcrDataMark body) s =
    .next (toSearch (gcrDataEval s.frontProv (sigGcrData ++ body) s)) := rfl

theorem exec_gcrAddressMark_of_fails {e : Event}
    (h : gcrAddrEval s.frontProv (sigGcrAddr ++ body) s = failCandidate e s) :
    exec (.gcrAddressMark body) s = .next (afterFailure e s) := by
  rw [exec_gcrAddressMark_eq, h, toSearch_failCandidate]

theorem exec_gcrDataMark_of_fails {e : Event}
    (h : gcrDataEval s.frontProv (sigGcrData ++ body) s = failCandidate e s) :
    exec (.gcrDataMark body) s = .next (afterFailure e s) := by
  rw [exec_gcrDataMark_eq, h, toSearch_failCandidate]

end

end Sys2Proof.Machine

open Sys2Proof Sys2Proof.Machine

/-- Settles O23, by the checks of R266 in their order. -/
theorem gcrAddressMarkIsAcceptedOrFails : Obligations.GcrAddressMarkIsAcceptedOrFails := by
  refine ⟨fun s c0 c1 c2 c3 c4 x y n0 n1 n2 n3 n4 h0 h1 h2 h3 h4 hxor => ?_,
    fun s => ⟨fun body hbody => ?_, fun c0 c1 c2 c3 c4 x y =>
      ⟨fun hbad => ?_, fun n0 n1 n2 n3 n4 h0 h1 h2 h3 h4 hxor => ?_⟩⟩⟩
  · have heval := gcrAddrEval_validSymbols (p := s.frontProv) (by rfl)
      (map_lookup_gcrAddr h0 h1 h2 h3 h4 x y)
    rw [exec_gcrAddressMark_eq, heval, if_neg (not_not.mpr hxor), pop_eq_dropped]
    rfl
  · have hlen : (sigGcrAddr ++ body).length = 3 + body.length := List.length_append
    rw [← hlen]
    exact exec_gcrAddressMark_of_fails (gcrAddrEval_truncated (by rw [hlen, lenGcrAddr]; omega))
  · rw [← slice_gcrAddr c0 c1 c2 c3 c4 x y, ← invalidSymbols_eq_filter_isNone] at hbad ⊢
    exact exec_gcrAddressMark_of_fails (gcrAddrEval_invalidSymbol rfl hbad)
  · have heval := gcrAddrEval_validSymbols (p := s.frontProv) (by rfl)
      (map_lookup_gcrAddr h0 h1 h2 h3 h4 x y)
    exact exec_gcrAddressMark_of_fails (heval.trans (if_pos hxor))

/-- Settles O29, by the checks of R286 in their order. -/
theorem gcrDataMarkIsDeliveredOrFails : Obligations.GcrDataMarkIsDeliveredOrFails := by
  unfold Obligations.GcrDataMarkIsDeliveredOrFails
  simp only [← byteAt_gcrData, ← slice_gcrData, ← invalidSymbols_eq_filter_isNone]
  refine ⟨fun s body sec g v d a hbody hsec hv hsyms hdenib hcksum htarget hg hgsec => ?_,
    fun s body => ⟨fun hbody => ?_, fun hbody => ?_⟩⟩
  · have hd := length_decoded_of_values hv hcksum
    have heval := gcrDataEval_denibblized (p := s.frontProv) (length_gcrData hbody) hsec hsyms hdenib
      hcksum htarget
    rw [if_neg (not_not.mpr rfl), if_neg (by simp [hg, hgsec]), hg, pop_eq_dropped] at heval
    refine ⟨hd, ?_⟩
    rw [exec_gcrDataMark_eq, heval]
    simp [toSearch, emitRecord, emitEvent, emit, gcrGeom, hd]
  · have hlen : (sigGcrData ++ body).length = 3 + body.length := List.length_append
    rw [← hlen]
    exact exec_gcrDataMark_of_fails (gcrDataEval_truncated (by rw [hlen, lenGcrData]; omega))
  · have hlen := length_gcrData hbody
    refine ⟨fun hsec => ?_, fun sec hsec => ⟨fun hbad => ?_, fun v hv hsyms =>
      ⟨fun pending j hdenib => ?_, fun hdenib d a t0 t1 t2 hcksum htarget => ?_⟩⟩⟩
    · exact exec_gcrDataMark_of_fails (gcrDataEval_invalidSector hlen hsec)
    · exact exec_gcrDataMark_of_fails (gcrDataEval_invalidSymbol hlen hsec hbad)
    · exact exec_gcrDataMark_of_fails (gcrDataEval_denibError hlen hsec hsyms hdenib)
    · have heval := gcrDataEval_denibblized (p := s.frontProv) hlen hsec hsyms hdenib hcksum htarget
      refine ⟨fun hsum => ?_, fun hsum => ⟨fun hg => ?_, fun g hg hgsec => ?_⟩⟩
      · exact exec_gcrDataMark_of_fails (heval.trans (if_pos hsum))
      · rw [if_neg (not_not.mpr hsum), hg] at heval
        exact exec_gcrDataMark_of_fails (heval.trans (if_pos (by simp)))
      · rw [if_neg (not_not.mpr hsum), hg] at heval
        exact exec_gcrDataMark_of_fails (heval.trans (if_pos (by simpa using hgsec)))

end

section
/-! The CRC engine: one bit of it is linear and injective, so registers that differ stay different
(44_mfm.md R321 to R323). -/

namespace Sys2Proof.Machine

/-! ## One bit -/

/-- One bit of `CRC_STEP` in plain arithmetic, on the register's number (R321). -/
theorem crcBit_toNat (c : Crc) : (crcBit c).toNat =
    if 0x8000 ≤ c.toNat then (2 * c.toNat % 0x10000) ^^^ 0x1021 else 2 * c.toNat := by
  have hlt := c.isLt
  have hmsb : c.msb = decide (0x8000 ≤ c.toNat) := BitVec.msb_eq_decide c
  have hshift : (c <<< 1).toNat = 2 * c.toNat % 0x10000 := by
    rw [BitVec.toNat_shiftLeft, Nat.shiftLeft_eq, Nat.mul_comm]
  by_cases h : 0x8000 ≤ c.toNat
  · simp [crcBit, hmsb, h, hshift]
  · simp only [crcBit, hmsb, h, decide_false, Bool.false_eq_true, if_false, hshift]
    omega

/-- The shift is linear, and the polynomial enters by the top bit, which is linear too. -/
theorem crcBit_xor (c d : Crc) : crcBit (c ^^^ d) = crcBit c ^^^ crcBit d := by
  simp only [crcBit, BitVec.msb_xor, BitVec.shiftLeft_xor_distrib]
  cases c.msb <;> cases d.msb
  · rfl
  · exact BitVec.xor_assoc _ _ _
  · show c <<< 1 ^^^ d <<< 1 ^^^ 0x1021 = c <<< 1 ^^^ 0x1021 ^^^ d <<< 1
    ac_rfl
  · simp [BitVec.xor_assoc]

/-- The polynomial is odd, so the low bit after the shift shows the top bit before it. -/
theorem getLsbD_crcBit_zero (c : Crc) : (crcBit c).getLsbD 0 = c.msb := by
  unfold crcBit
  cases c.msb <;> simp

theorem eq_zero_of_crcBit_eq_zero {c : Crc} (h : crcBit c = 0) : c = 0 := by
  have hmsb : c.msb = false := by simpa [h] using (getLsbD_crcBit_zero c).symm
  have hnat := crcBit_toNat c
  have hlow : ¬ 0x8000 ≤ c.toNat := by
    simpa [hmsb] using (BitVec.msb_eq_decide c).symm
  rw [if_neg hlow, h] at hnat
  apply BitVec.eq_of_toNat_eq
  simpa using hnat

theorem crcBit_injective : Function.Injective crcBit := by
  intro c d h
  have hzero : crcBit (c ^^^ d) = 0 := (crcBit_xor c d).trans (BitVec.xor_eq_zero_iff.mpr h)
  exact BitVec.xor_eq_zero_iff.mp (eq_zero_of_crcBit_eq_zero hzero)

/-! ## Several bits -/

theorem crcBits_eq_iterate (n : Nat) (c : Crc) : crcBits n c = crcBit^[n] c := by
  induction n generalizing c with
  | zero => rfl
  | succ n ih => rw [crcBits, withValue_eq, ih, Function.iterate_succ_apply]

theorem crcBit_iterate_xor (n : Nat) (c d : Crc) :
    crcBit^[n] (c ^^^ d) = crcBit^[n] c ^^^ crcBit^[n] d := by
  induction n generalizing c d with
  | zero => rfl
  | succ n ih => simp only [Function.iterate_succ_apply, crcBit_xor, ih]

theorem crcBit_iterate_eq_zero_iff (n : Nat) (c : Crc) : crcBit^[n] c = 0 ↔ c = 0 := by
  have hzero : crcBit^[n] 0 = 0 := Function.iterate_fixed rfl n
  exact ⟨fun h => crcBit_injective.iterate n (h.trans hzero.symm), fun h => h ▸ hzero⟩

/-- A low byte reaches the high half in 8 bits, with no top bit on its way. -/
theorem crcBit_iterate_low_byte (b : Byte) :
    crcBit^[8] (b.setWidth 16) = b.setWidth 16 <<< 8 := by
  rw [← crcBits_eq_iterate]
  revert b
  decide

/-! ## Bytes -/

theorem toNat_highByte (b : Byte) : ((b.setWidth 16 : Crc) <<< 8).toNat = b.toNat * 256 := by
  have := b.isLt
  simp only [BitVec.toNat_shiftLeft, BitVec.toNat_setWidth, Nat.shiftLeft_eq]
  omega

theorem append_eq_highByte_xor (hi lo : Byte) :
    hi ++ lo = (hi.setWidth 16 : Crc) <<< 8 ^^^ lo.setWidth 16 := by
  apply BitVec.eq_of_getLsbD_eq
  intro i (hi16 : i < 16)
  refine BitVec.getLsbD_append.trans ?_
  by_cases h8 : i < 8
  · simp [h8, hi16]
  · simp [h8, hi16, BitVec.getLsbD_of_ge lo i (not_lt.mp h8)]

theorem crcStep_eq_iterate (c : Crc) (b : Byte) :
    crcStep c b = crcBit^[8] (c ^^^ (b.setWidth 16 <<< 8)) := crcBits_eq_iterate 8 _

theorem crcStep_left_injective (b : Byte) : Function.Injective (crcStep · b) := by
  intro c d h
  simp only [crcStep_eq_iterate] at h
  exact (BitVec.xor_left_inj _).mp (crcBit_injective.iterate 8 h)

theorem crcStep_right_injective (c : Crc) : Function.Injective (crcStep c) := by
  intro b b' h
  rw [crcStep_eq_iterate, crcStep_eq_iterate] at h
  have hnat := congrArg BitVec.toNat ((BitVec.xor_right_inj _).mp (crcBit_injective.iterate 8 h))
  rw [toNat_highByte, toNat_highByte] at hnat
  exact BitVec.eq_of_toNat_eq (by omega)

/-- Two steps are 16 bits of the register with both bytes in it, high byte first. -/
theorem crcStep_crcStep (c : Crc) (hi lo : Byte) :
    crcStep (crcStep c hi) lo = crcBit^[16] (c ^^^ (hi ++ lo)) := by
  rw [crcStep_eq_iterate, crcStep_eq_iterate, ← crcBit_iterate_low_byte lo, ← crcBit_iterate_xor,
    ← Function.iterate_add_apply, BitVec.xor_assoc, ← append_eq_highByte_xor]

/-! ## Records -/

theorem crcFrom_left_injective (r : List Byte) : Function.Injective (crcFrom · r) := by
  induction r with
  | nil => exact fun _ _ h => h
  | cons b r ih =>
    intro c d h
    simp only [crcFrom, withValue_eq] at h
    exact crcStep_left_injective b (ih h)

theorem crc_concat (r : List Byte) (b : Byte) : crc (r ++ [b]) = crcStep (crc r) b := by
  simp [crc, crcFrom]

/-- The residue of a record: its last two bytes against the CRC of the rest (R323). -/
theorem crc_append_trailer_eq_zero_iff (r : List Byte) (hi lo : Byte) :
    crc (r ++ [hi, lo]) = 0 ↔ hi ++ lo = crc r := by
  have hstep : crc (r ++ [hi, lo]) = crcStep (crcStep (crc r) hi) lo := by
    rw [← crc_concat, ← crc_concat, List.append_assoc]
    rfl
  rw [hstep, crcStep_crcStep, crcBit_iterate_eq_zero_iff]
  exact BitVec.xor_eq_zero_iff.trans eq_comm

theorem crc_withCrc (r : List Byte) : crc (withCrc r) = 0 :=
  (crc_append_trailer_eq_zero_iff r _ _).mpr
    ((BitVec.extractLsb'_append_extractLsb'_eq_extractLsb' rfl).trans BitVec.extractLsb'_eq_self)

theorem crc_set {r : List Byte} {i : Nat} (hi : i < r.length) (b : Byte) :
    crc (r.set i b) = crcFrom (crcStep (crc (r.take i)) b) (r.drop (i + 1)) := by
  simp [List.set_eq_take_append_cons_drop, hi, crc, crcFrom]

/-- Another byte at one place of a record gives another CRC: the step tells the two bytes apart, and
the bytes after them keep the two registers apart. -/
theorem crc_set_ne {r : List Byte} {i : Nat} {b b' : Byte} (h : r[i]? = some b) (hne : b' ≠ b) :
    crc (r.set i b') ≠ crc r := by
  obtain ⟨hi, rfl⟩ := List.getElem?_eq_some_iff.mp h
  intro heq
  rw [← List.set_getElem_self hi, List.set_set, crc_set hi, crc_set hi] at heq
  exact hne (crcStep_right_injective _ (crcFrom_left_injective _ heq))

/-- Flipping a bit of a byte changes the byte. -/
theorem xor_bit_ne {k : Nat} (hk : k < 8) (b : Byte) : b ^^^ (1#8 <<< k) ≠ b := by
  have hbit : ∀ k < 8, (1#8 <<< k) ≠ 0#8 := by decide
  intro h
  exact hbit k hk ((BitVec.xor_right_inj b).mp (h.trans BitVec.xor_zero.symm))

end Sys2Proof.Machine

open Sys2Proof Sys2Proof.Machine

/-- Settles O31: `crcBit` is the arithmetic of one bit, and the residue is 16 bits of a difference,
which are zero only where the difference is. -/
theorem crcEngineAndResidue : Obligations.CrcEngineAndResidue := by
  refine ⟨fun c b => ?_, ⟨rfl, crc_concat⟩, crc_append_trailer_eq_zero_iff, crc_withCrc⟩
  rw [crcStep_eq_iterate, ← toNat_highByte, ← BitVec.toNat_xor]
  refine Function.Semiconj.iterate_right ?_ 8 _
  exact crcBit_toNat

/-- Settles O32: a flipped bit is another byte, so the CRC is another than 0. -/
theorem crcSeesEverySingleBit : Obligations.CrcSeesEverySingleBit := by
  intro r i k b hcrc hb hk
  exact hcrc ▸ crc_set_ne hb (xor_bit_ne hk b)

end

section
/-! The evaluations of the MFM sector decoder, check by check in the order of the spec (44_mfm.md
R324 to R330). -/

namespace Sys2Proof.Machine

/-! ## What the checks read -/

/-- A CrcMismatch holds the CRC of the bytes before the trailer, and the trailer (R329). -/
theorem crcMismatchEvent_trailer (p : Option Prov) (kind : Kind) (r : List Byte) (hi lo : Byte) :
    crcMismatchEvent p kind (r ++ [hi, lo]) (r.length + 2) =
      .crcMismatch p kind (crc r) (hi ++ lo) := by
  simp [crcMismatchEvent, word16, byteAt]

theorem mfmSize_eq_ofNat (code : Byte) : mfmSize code = BitVec.ofNat 16 (code.toNat * 256) := by
  apply BitVec.eq_of_toNat_eq
  simp [mfmSize]

/-- The payload of a data mark stands between its signature and its trailer (R328). -/
theorem slice_mfmData {d : List Byte} (hd : d.length = 512) (hi lo : Byte) :
    slice (sigMfmData ++ d ++ [hi, lo]) 4 512 = d := by
  simp [slice, sigMfmData, ← hd]

theorem length_mfmData {d : List Byte} (hd : d.length = 512) :
    (sigMfmData ++ d).length + 2 = lenMfmData := by
  rw [List.length_append, hd]
  rfl

theorem mfmGeom_eq {g : Option MfmGeom} {geom : Geom}
    (h : (g = none ∧ geom = .none) ∨ ∃ m, g = some m ∧ geom = .mfm m) : mfmGeom g = geom := by
  rcases h with ⟨rfl, rfl⟩ | ⟨m, rfl, rfl⟩ <;> rfl

/-! ## The checks -/

section
variable {p : Option Prov} {s : State}

theorem mfmAddrEval_truncated {r : List Byte} (h : r.length < lenMfmAddr) :
    mfmAddrEval p r s = failCandidate (.truncated p .mfmAddr r.length) s := if_pos h

theorem mfmDataEval_truncated {r : List Byte} (h : r.length < lenMfmData) :
    mfmDataEval p r s = failCandidate (.truncated p .mfmData r.length) s := if_pos h

/-- Of a complete address mark the one check is its CRC (R325). -/
theorem mfmAddrEval_complete (track side sector code c1 c0 : Byte) :
    mfmAddrEval p (sigMfmAddr ++ [track, side, sector, code, c1, c0]) s =
      if crc (sigMfmAddr ++ [track, side, sector, code, c1, c0]) ≠ 0 then
        failCandidate (.crcMismatch p .mfmAddr (crc (sigMfmAddr ++ [track, side, sector, code]))
          (c1 ++ c0)) s
      else
        pop 10 (emitEvent (.mfmAddressMark p track side sector (mfmSize code))
          { s with mgeom := some ⟨track, side, sector, code⟩ }) := rfl

/-- Of a complete data mark the one check is its CRC (R328). -/
theorem mfmDataEval_complete {d : List Byte} (hd : d.length = 512) (c1 c0 : Byte) :
    mfmDataEval p (sigMfmData ++ d ++ [c1, c0]) s =
      if crc (sigMfmData ++ d ++ [c1, c0]) ≠ 0 then
        failCandidate (.crcMismatch p .mfmData (crc (sigMfmData ++ d)) (c1 ++ c0)) s
      else pop 518 (emitRecord .mfmData p (mfmGeom s.mgeom) d s) := by
  have hlen : (sigMfmData ++ d ++ [c1, c0]).length = lenMfmData :=
    List.length_append.trans (length_mfmData hd)
  have hevent := crcMismatchEvent_trailer p .mfmData (sigMfmData ++ d) c1 c0
  rw [length_mfmData hd] at hevent
  rw [mfmDataEval, if_neg hlen.not_lt, slice_mfmData hd, hevent]
  rfl

end

/-! ## The record instructions -/

section
variable {s : State} {body : List Byte}

/-- The instruction is the evaluation at the window's front, then the return to `Search` (R325). -/
theorem exec_mfmAddressMark_eq : exec (.mfmAddressMark body) s =
    .next (toSearch (mfmAddrEval s.frontProv (sigMfmAddr ++ body) s)) := rfl

theorem exec_mfmDataMark_eq : exec (.mfmDataMark body) s =
    .next (toSearch (mfmDataEval s.frontProv (sigMfmData ++ body) s)) := rfl

theorem exec_mfmAddressMark_of_fails {e : Event}
    (h : mfmAddrEval s.frontProv (sigMfmAddr ++ body) s = failCandidate e s) :
    exec (.mfmAddressMark body) s = .next (afterFailure e s) := by
  rw [exec_mfmAddressMark_eq, h, toSearch_failCandidate]

theorem exec_mfmDataMark_of_fails {e : Event}
    (h : mfmDataEval s.frontProv (sigMfmData ++ body) s = failCandidate e s) :
    exec (.mfmDataMark body) s = .next (afterFailure e s) := by
  rw [exec_mfmDataMark_eq, h, toSearch_failCandidate]

end

end Sys2Proof.Machine

open Sys2Proof Sys2Proof.Machine

/-- Settles O33: the mark needs no check, and its four bytes are dropped at once. -/
theorem mfmIndexMarkIsReported : Obligations.MfmIndexMarkIsReported := by
  intro s
  show Host.Outcome.next (toSearch (pop 4 (emitEvent (.mfmIndexMark s.frontProv) s))) = _
  rw [pop_eq_dropped]
  rfl

/-- Settles O34: the length, then the CRC. -/
theorem mfmAddressMarkIsAcceptedOrFails : Obligations.MfmAddressMarkIsAcceptedOrFails := by
  refine ⟨fun s track side sector code c1 c0 hcrc => ?_,
    fun s => ⟨fun body hbody => ?_, fun track side sector code c1 c0 hcrc => ?_⟩⟩
  · have heval := (mfmAddrEval_complete (p := s.frontProv) (s := s) ..).trans
      (if_neg (not_not.mpr hcrc))
    rw [exec_mfmAddressMark_eq, heval, pop_eq_dropped, mfmSize_eq_ofNat]
    rfl
  · have hlen : (sigMfmAddr ++ body).length = 4 + body.length := List.length_append
    rw [← hlen]
    exact exec_mfmAddressMark_of_fails (mfmAddrEval_truncated (by rw [hlen, lenMfmAddr]; omega))
  · exact exec_mfmAddressMark_of_fails ((mfmAddrEval_complete ..).trans (if_pos hcrc))

/-- Settles O35: the length, then the CRC, whatever the geometry is. -/
theorem mfmDataMarkIsDeliveredOrFails : Obligations.MfmDataMarkIsDeliveredOrFails := by
  intro s
  refine ⟨fun body hbody => ?_, fun d c1 c0 hd => ?_⟩
  · have hlen : (sigMfmData ++ body).length = 4 + body.length := List.length_append
    rw [← hlen]
    exact exec_mfmDataMark_of_fails (mfmDataEval_truncated (by rw [hlen, lenMfmData]; omega))
  · have heval := mfmDataEval_complete (p := s.frontProv) (s := s) hd c1 c0
    rw [List.append_assoc] at heval
    refine ⟨fun hcrc => ?_, fun hcrc geom hgeom => ?_⟩
    · exact exec_mfmDataMark_of_fails (heval.trans (if_pos hcrc))
    · rw [exec_mfmDataMark_eq, heval.trans (if_neg (not_not.mpr hcrc)), mfmGeom_eq hgeom,
        pop_eq_dropped]
      simp [toSearch, emitRecord, emitEvent, emit, hd]

end

section
/-! The output ports: what every step does to them, the record's direction and codes, and the one fixed
log line (60_exceptions.md R350 to R356). -/

namespace Sys2Proof.Machine

/-! ## Only appends -/

theorem GeomWork.trace_prefix {s t : State} (h : GeomWork s t) : s.trace <+: t.trace := by
  obtain ⟨outs, htrace, -⟩ := h
  exact ⟨outs, htrace.symm⟩

/-- No instruction removes an output, RESET, STOP and a refusal included (R355). -/
theorem Ran.trace_prefix {s t : State} {i : Instr} (ht : Ran s i t) : s.trace <+: t.trace := by
  cases ht with
  | reset m => exact List.prefix_rfl
  | idle => exact (geomWork_opIdle s).trace_prefix
  | byte b => exact (geomWork_opByte b s).trace_prefix
  | stop => exact List.prefix_rfl
  | refused => exact List.prefix_rfl
  | record _ ht => exact ht.geomWork.trace_prefix
  | frame _ b bs => exact (geomWork_feedBytes (b :: bs) s).trace_prefix

theorem step_trace_prefix {s t : State} (h : step s = .next t) : s.trace <+: t.trace :=
  step_keeps (P := fun u => s.trace <+: u.trace) (fun _ _ hs => hs) (fun _ _ hs => hs)
    (fun u hs => hs.trans (acted_act u).geomWork.trace_prefix)
    (fun _ _ _ ht hs => hs.trans ht.trace_prefix) List.prefix_rfl h

/-! ## A record and its codes -/

/-- Off the link a record's direction is its provenance's (R351). -/
theorem recordDir_of_not_dcd {kind : Kind} (hh2p : kind ≠ .dcdH2P) (hp2h : kind ≠ .dcdP2H)
    (prov : Option Prov) : recordDir kind prov = (prov.bind Prov.dir).elim .none .bit := by
  cases kind with
  | dcdH2P => exact absurd rfl hh2p
  | dcdP2H => exact absurd rfl hp2h
  | gcrAddr | gcrData | mfmAddr | mfmData => cases h : prov.bind Prov.dir <;> simp [recordDir, h]

/-- Codes 0x00 and 0x10 to 0xFF are no event's (R350). -/
theorem Event.code_range (e : Event) : 0 < e.code.toNat ∧ e.code.toNat < 0x10 := by
  cases e <;> simp [Event.code]

/-! ## Decimal digits -/

theorem ofNat_eq_digitChar {n : Nat} (h : n < 10) : Char.ofNat (48 + n) = Nat.digitChar n := by
  interval_cases n <;> rfl

/-- With room for every digit, `decimal` is the library's decimal rendering. -/
theorem decimal_eq_toDigits {fuel n : Nat} (hfuel : fuel ≠ 0) (hn : n < 10 ^ fuel) :
    decimal fuel n = Nat.toDigits 10 n := by
  induction fuel generalizing n with
  | zero => exact absurd rfl hfuel
  | succ fuel ih =>
    rw [decimal]
    split_ifs with hdigit
    · rw [ofNat_eq_digitChar hdigit, Nat.toDigits_of_lt_base hdigit]
    · have hle : 10 ≤ n := not_lt.mp hdigit
      have hquot : n / 10 < 10 ^ fuel := Nat.div_lt_of_lt_mul (by rwa [← Nat.pow_succ'])
      have hroom : fuel ≠ 0 := by
        rintro rfl
        exact hdigit hn
      rw [ih hroom hquot, ofNat_eq_digitChar (Nat.mod_lt n (by decide)),
        Nat.toDigits_of_base_le (by decide) hle]

/-- `%d` renders every value of at most 16 bits (R356). -/
theorem fmtD_toNat {w : Nat} (hw : w ≤ 16) (x : BitVec w) : fmtD x.toNat = Nat.toDigits 10 x.toNat := by
  have hx : x.toNat < 2 ^ 16 := x.isLt.trans_le (Nat.pow_le_pow_right (by decide) hw)
  exact decimal_eq_toDigits (by decide) (by omega)

end Sys2Proof.Machine

open Sys2Proof Sys2Proof.Machine

/-- Settles O47: the trace grows at its end, and the ports are projections of it. -/
theorem outputsAreAppendOnly : Obligations.OutputsAreAppendOnly := by
  intro s t hstep
  have h := step_trace_prefix hstep
  exact ⟨h, h.filterMap Output.capture?, h.filterMap Output.event?, h.filterMap Output.record?⟩

/-- Settles O59: each field is below 10 to the fifth, so `%d` prints it whole. -/
theorem mfmAddressMarkLogLine : Obligations.MfmAddressMarkLogLine := by
  refine ⟨fun p track side sector size => ?_, fun e he => ?_⟩
  · have hbyte (x : Byte) : fmtD x.toNat = Nat.toDigits 10 x.toNat := fmtD_toNat (by decide) x
    rw [Event.logLine, fmt03D, fmt03D, hbyte track, hbyte side, hbyte sector,
      fmtD_toNat (by decide) size]
    rfl
  · cases e with
    | mfmAddressMark p track side sector size => exact absurd rfl (he p track side sector size)
    | _ => rfl

/-- Settles O57: the table row by row, and its range. -/
theorem eventCodesAreTheTable : Obligations.EventCodesAreTheTable :=
  ⟨fun _ _ => rfl, fun _ _ _ => rfl, fun _ _ _ => rfl, fun _ _ _ => rfl, fun _ _ _ _ => rfl,
    fun _ _ _ => rfl, fun _ _ _ _ => rfl, fun _ _ _ _ _ => rfl, fun _ => rfl,
    fun _ _ _ _ _ => rfl, fun _ _ _ _ => rfl, fun _ _ _ => rfl, fun _ _ _ => rfl,
    fun _ _ _ _ => rfl, fun _ => rfl, Event.code_range, by decide, by decide, by decide, rfl⟩

/-- Settles O58: `emitRecord_eq`, with the direction of each kind. -/
theorem recordIsEmittedWithItsEvent : Obligations.RecordIsEmittedWithItsEvent := by
  intro kind prov geom payload dir s hdir
  have hrecord : recordDir kind (some prov) = dir := by
    rcases hdir with ⟨rfl, rfl⟩ | ⟨rfl, rfl⟩ | ⟨hh2p, hp2h, hbit⟩
    · rfl
    · rfl
    · rw [recordDir_of_not_dcd hh2p hp2h]
      rcases hbit with ⟨hnone, rfl⟩ | ⟨d, hsome, rfl⟩
      · simp [hnone]
      · simp [hsome]
  rw [emitRecord_eq, mkRecord, hrecord]
  rfl

end

section
/-! Power-on (70_reset_and_hazards.md R380, log entry 7), and an IDLE at a record site that waits
(R390). -/

namespace Sys2Proof.Machine

/-! ## The fields that can be seen before the first RESET -/

/-- The two states agree on the fields that power-on specifies (R47, R380), on the configuration and on
the input port. -/
structure AgreesOnSpecified (s t : State) : Prop where
  run     : s.run = t.run
  cfg     : s.cfg = t.cfg
  trace   : s.trace = t.trace
  refused : s.refused = t.refused
  input   : s.input = t.input

/-- What two runs from power-on share after each step: the specified fields, and everything once a
session has started. -/
structure SameSinceReset (s t : State) : Prop extends AgreesOnSpecified s t where
  whole : s.run ≠ .unconfigured → s = t

section
variable {s t : State}

theorem AgreesOnSpecified.after_setInput (h : AgreesOnSpecified s t) (ws : List InputWord) :
    AgreesOnSpecified { s with input := ws } { t with input := ws } :=
  ⟨h.run, h.cfg, h.trace, h.refused, rfl⟩

theorem AgreesOnSpecified.unconfigured (h : AgreesOnSpecified s t) (hrun : s.run = .unconfigured) :
    SameSinceReset s t :=
  ⟨h, fun hne => absurd hrun hne⟩

theorem SameSinceReset.of_eq (h : s = t) : SameSinceReset s t :=
  h ▸ ⟨⟨rfl, rfl, rfl, rfl, rfl⟩, fun _ => rfl⟩

theorem AgreesOnSpecified.after_refuse (h : AgreesOnSpecified s t) (q : RefuseReason) :
    AgreesOnSpecified (refuse q s) (refuse q t) where
  run := h.run
  cfg := h.cfg
  trace := h.trace
  refused := by rw [refuse_eq, refuse_eq, h.refused]
  input := h.input

theorem AgreesOnSpecified.after_refuseReserved (h : AgreesOnSpecified s t) (r : ReservedWord) :
    AgreesOnSpecified (refuseReserved r s) (refuseReserved r t) := by
  cases r <;> exact h.after_refuse _

/-- RESET writes every field that power-on leaves unspecified (R47, R151). -/
theorem AgreesOnSpecified.opReset_eq (h : AgreesOnSpecified s t) (m : Mode) :
    opReset m s = opReset m t := by
  rw [opReset, opReset, h.cfg, h.trace, h.refused, h.input]

/-- Before the first RESET the block refuses IDLE, STOP and BYTE (R152). -/
theorem exec_unconfigured {i : Instr} (hi : i = .idle ∨ i = .stop ∨ ∃ b, i = .byte b)
    (hrun : s.run = .unconfigured) : exec i s = .next (refuse .unconfigured s) := by
  obtain ⟨f, hf⟩ := exec_eq_whenRunning hi
  rw [hf, whenRunning_unconfigured f hrun, refuse_eq]

theorem AgreesOnSpecified.after_exec_word (h : AgreesOnSpecified s t) (hrun : s.run = .unconfigured)
    {w : InputWord} {i : Instr} (hw : decodeWord w = .ok i) :
    ∃ s' t', exec i s = .next s' ∧ exec i t = .next t' ∧ SameSinceReset s' t' := by
  have hrefused (hi : i = .idle ∨ i = .stop ∨ ∃ b, i = .byte b) :
      ∃ s' t', exec i s = .next s' ∧ exec i t = .next t' ∧ SameSinceReset s' t' :=
    ⟨_, _, exec_unconfigured hi hrun, exec_unconfigured hi (h.run ▸ hrun),
      (h.after_refuse .unconfigured).unconfigured hrun⟩
  rcases decodeWord_cases hw with hidle | hbyte | ⟨m, rfl⟩ | hstop
  · exact hrefused (.inl hidle)
  · exact hrefused (.inr (.inr hbyte))
  · exact ⟨_, _, rfl, rfl, .of_eq (h.opReset_eq m)⟩
  · exact hrefused (.inr (.inl hstop))

/-- Outside a session the block never goes on without a read. -/
theorem not_busy_of_unconfigured (hrun : s.run = .unconfigured) : s.busy = false := by
  simp [State.busy, hrun]

/-- A step before the first RESET reads none of the fields that power-on leaves unspecified. -/
theorem AgreesOnSpecified.after_step (h : AgreesOnSpecified s t) (hrun : s.run = .unconfigured) :
    ∃ s' t', step s = .next s' ∧ step t = .next t' ∧ SameSinceReset s' t' := by
  obtain ⟨hholdS, hrunS, hrefuseS⟩ := stepRunsTheDecodedWord s (not_busy_of_unconfigured hrun)
  obtain ⟨hholdT, hrunT, hrefuseT⟩ :=
    stepRunsTheDecodedWord t (not_busy_of_unconfigured (h.run ▸ hrun))
  rw [← h.input] at hholdT hrunT hrefuseT
  cases hin : s.input with
  | nil => exact ⟨s, t, hholdS hin, hholdT hin, h.unconfigured hrun⟩
  | cons w ws =>
    have hread := h.after_setInput ws
    cases hw : decodeWord w with
    | ok i =>
      rw [hrunS w ws i hin hw, hrunT w ws i hin hw]
      exact hread.after_exec_word hrun hw
    | error r =>
      have hrunRefused : (refuseReserved r { s with input := ws }).run = .unconfigured := by
        cases r <;> exact hrun
      exact ⟨_, _, hrefuseS w ws r hin hw, hrefuseT w ws r hin hw,
        (hread.after_refuseReserved r).unconfigured hrunRefused⟩

/-! ## The candidate that an IDLE cuts short -/

/-- The outputs of RESUME begin with those of its first iteration (R156). -/
theorem act_trace_prefix_resume (s : State) : (act s).trace <+: (resume s).trace := by
  rw [resume, resumeFor]
  split_ifs
  · exact List.prefix_rfl
  · exact resumeFor_induct (P := fun u => (act s).trace <+: u.trace)
      (fun u hu => hu.trans (acted_act u).geomWork.trace_prefix) _ _ List.prefix_rfl

section
variable {kind : Kind} (hshort : s.win.buf.length < want s.mode s.site)
  (hsite : (s.site = .gcrAddr ∧ kind = .gcrAddr) ∨ (s.site = .gcrData ∧ kind = .gcrData) ∨
    (s.site = .mfmAddr ∧ kind = .mfmAddr) ∨ (s.site = .mfmData ∧ kind = .mfmData))
include hshort hsite

/-- A record site whose PEEK ends short truncates its candidate, whatever the site (R267, R330). -/
theorem act_truncates :
    act s = toSearch (failCandidate (.truncated s.frontProv kind s.win.buf.length) s) := by
  have hlen : ((s.win.buf.take (want s.mode s.site)).map Entry.byte).length = s.win.buf.length := by
    simp [hshort.le]
  have hlt := hlen.trans_lt hshort
  rcases hsite with ⟨hsite, rfl⟩ | ⟨hsite, rfl⟩ | ⟨hsite, rfl⟩ | ⟨hsite, rfl⟩ <;>
    rw [hsite, want] at hlen hlt
  · rw [act_gcrAddr hsite, actGcrAddr, gcrAddrEval_truncated hlt, hlen]
  · rw [act_gcrData hsite, actGcrData, gcrDataEval_truncated hlt, hlen]
  · rw [act_mfmAddr hsite, actMfmAddr, mfmAddrEval_truncated hlt, hlen]
  · rw [act_mfmData hsite, actMfmData, mfmDataEval_truncated hlt, hlen]

theorem resume_truncates_first : ∃ outs, (resume s).trace =
    s.trace ++ .event (.truncated s.frontProv kind s.win.buf.length) :: outs := by
  obtain ⟨outs, houts⟩ := act_trace_prefix_resume s
  refine ⟨outs, ?_⟩
  rw [← houts, act_truncates hshort hsite, List.append_cons]
  rfl

end

end

end Sys2Proof.Machine

open Sys2Proof Sys2Proof.Machine

/-- Settles O10: before the first RESET a step reads only the specified fields, and RESET writes all the
others. -/
theorem powerOnValuesAreUnobservable : Obligations.PowerOnValuesAreUnobservable := by
  refine ⟨by decide, fun s t hs ht hcfg htrace href hinput => ?_⟩
  have hagree : AgreesOnSpecified s t := ⟨hs.trans ht.symm, hcfg, htrace, href, hinput⟩
  obtain ⟨s', t', hs', ht', hsame⟩ := hagree.after_step hs
  exact ⟨s', t', hs', ht', hsame.run, hsame.cfg, hsame.trace, hsame.refused, hsame.input, hsame.whole⟩

/-- Settles O17: the first iteration after the end-of-stream mark is the truncation, and the rest of the
drain only appends. -/
theorem idleTruncatesAWaitingRecord : Obligations.IdleTruncatesAWaitingRecord := by
  intro s kind hrun _ hshort hsite
  have htrace : ∃ outs, (opIdle s).trace =
      s.trace ++ .event (.truncated s.frontProv kind s.win.buf.length) :: outs := by
    rw [opIdle_eq]
    exact resume_truncates_first hshort hsite
  obtain ⟨outs, houts⟩ := htrace
  exact ⟨_, outs, exec_idle_running hrun, houts⟩

end
